-- ==== Sys2Proof/Word.lean ====
section
/-! DEFINITION. The two word types of the CORE (00_scope R8): `u8` and `u16`. -/

namespace Sys2Proof

/-- `u8`: a byte, a bank, the status byte (R8). -/
abbrev Byte := BitVec 8

/-- `u16`: a 16-bit register, an offset inside a bank (R8). -/
abbrev Word := BitVec 16

end Sys2Proof
end

