-- ==== Sys2Proof/Syntax.lean ====
section
/-! DEFINITION. The syntax of the CORE: the ten variants of the closed addressing-mode type (30_encoding
R95), the thirteen formats (R93), the 78 mnemonics, and Instr, one constructor per row of
spec/opcode_table.json (R99, R100). -/

namespace Sys2Proof

/-- The ten addressing-mode variants, each with its operand field (R95). -/
inductive Variant where
  | imm16 (v : Word)
  | imm8 (v : Byte)
  | abs (a : Word)
  | absLong (b : Byte) (a : Word)
  | absX (a : Word)
  | absLongX (b : Byte) (a : Word)
  | direct (d : Byte)
  | directX (d : Byte)
  | rel (r : Byte)
  | indLongY (d : Byte)
  deriving DecidableEq, Repr, Inhabited

/-- The operand of the formats IMMM and IMMX: one byte or two, as the widths say at decode (R97). -/
inductive Imm where
  | imm8 (v : Byte)
  | imm16 (v : Word)
  deriving DecidableEq, Repr, Inhabited

/-- The thirteen formats (R93). -/
inductive Format where
  | imp | acc | imm8 | immM | immX | dp | dpx | ily | rel | abs | absx | long | longx
  deriving DecidableEq, Repr, Inhabited

/-- The 78 mnemonics, family by family (R100). -/
inductive Mnemonic where
  | LDA | LDX | LDY | STA | STX | STY | STZ
  | ADC | SBC | AND | ORA | EOR | CMP | CPX | CPY | BIT | TSB | TRB
  | ASL | LSR | ROL | ROR | INC | DEC | INX | INY | DEX | DEY
  | TAX | TAY | TXA | TYA | TXY | TYX | TXS | TSX | TCS | TSC | TCD | TDC | XBA
  | PHA | PHX | PHY | PHP | PHB | PHK | PHD | PLA | PLX | PLY | PLP | PLB | PLD
  | BPL | BMI | BVC | BVS | BCC | BCS | BNE | BEQ | BRA | JML | JSL | RTL
  | CLC | SEC | CLI | SEI | CLD | SED | CLV | REP | SEP | XCE | NOP | RTI
  deriving DecidableEq, Repr, Inhabited

/-- The instructions: one constructor per row of the opcode table, named by mnemonic and, where the
mnemonic has several rows, format; its arguments are the operand fields of the format (R93, R100). -/
inductive Instr where
  -- LoadStore
  | ldaImm (v : Imm)
  | ldaDp (d : Byte)
  | ldaDpx (d : Byte)
  | ldaAbs (a : Word)
  | ldaAbsx (a : Word)
  | ldaLong (b : Byte) (a : Word)
  | ldaLongx (b : Byte) (a : Word)
  | ldaIly (d : Byte)
  | ldxImm (v : Imm)
  | ldxDp (d : Byte)
  | ldxAbs (a : Word)
  | ldyImm (v : Imm)
  | ldyDp (d : Byte)
  | ldyDpx (d : Byte)
  | ldyAbs (a : Word)
  | ldyAbsx (a : Word)
  | staDp (d : Byte)
  | staDpx (d : Byte)
  | staAbs (a : Word)
  | staAbsx (a : Word)
  | staLong (b : Byte) (a : Word)
  | staLongx (b : Byte) (a : Word)
  | staIly (d : Byte)
  | stxDp (d : Byte)
  | stxAbs (a : Word)
  | styDp (d : Byte)
  | styDpx (d : Byte)
  | styAbs (a : Word)
  | stzDp (d : Byte)
  | stzDpx (d : Byte)
  | stzAbs (a : Word)
  | stzAbsx (a : Word)
  -- Arith
  | adcImm (v : Imm)
  | adcDp (d : Byte)
  | adcDpx (d : Byte)
  | adcAbs (a : Word)
  | adcAbsx (a : Word)
  | adcLong (b : Byte) (a : Word)
  | adcLongx (b : Byte) (a : Word)
  | adcIly (d : Byte)
  | sbcImm (v : Imm)
  | sbcDp (d : Byte)
  | sbcDpx (d : Byte)
  | sbcAbs (a : Word)
  | sbcAbsx (a : Word)
  | sbcLong (b : Byte) (a : Word)
  | sbcLongx (b : Byte) (a : Word)
  | sbcIly (d : Byte)
  | andImm (v : Imm)
  | andDp (d : Byte)
  | andDpx (d : Byte)
  | andAbs (a : Word)
  | andAbsx (a : Word)
  | andLong (b : Byte) (a : Word)
  | andLongx (b : Byte) (a : Word)
  | andIly (d : Byte)
  | oraImm (v : Imm)
  | oraDp (d : Byte)
  | oraDpx (d : Byte)
  | oraAbs (a : Word)
  | oraAbsx (a : Word)
  | oraLong (b : Byte) (a : Word)
  | oraLongx (b : Byte) (a : Word)
  | oraIly (d : Byte)
  | eorImm (v : Imm)
  | eorDp (d : Byte)
  | eorDpx (d : Byte)
  | eorAbs (a : Word)
  | eorAbsx (a : Word)
  | eorLong (b : Byte) (a : Word)
  | eorLongx (b : Byte) (a : Word)
  | eorIly (d : Byte)
  | cmpImm (v : Imm)
  | cmpDp (d : Byte)
  | cmpDpx (d : Byte)
  | cmpAbs (a : Word)
  | cmpAbsx (a : Word)
  | cmpLong (b : Byte) (a : Word)
  | cmpLongx (b : Byte) (a : Word)
  | cmpIly (d : Byte)
  | cpxImm (v : Imm)
  | cpxDp (d : Byte)
  | cpxAbs (a : Word)
  | cpyImm (v : Imm)
  | cpyDp (d : Byte)
  | cpyAbs (a : Word)
  | bitImm (v : Imm)
  | bitDp (d : Byte)
  | bitDpx (d : Byte)
  | bitAbs (a : Word)
  | bitAbsx (a : Word)
  | tsbDp (d : Byte)
  | tsbAbs (a : Word)
  | trbDp (d : Byte)
  | trbAbs (a : Word)
  -- Shift
  | aslAcc
  | aslDp (d : Byte)
  | aslDpx (d : Byte)
  | aslAbs (a : Word)
  | aslAbsx (a : Word)
  | lsrAcc
  | lsrDp (d : Byte)
  | lsrDpx (d : Byte)
  | lsrAbs (a : Word)
  | lsrAbsx (a : Word)
  | rolAcc
  | rolDp (d : Byte)
  | rolDpx (d : Byte)
  | rolAbs (a : Word)
  | rolAbsx (a : Word)
  | rorAcc
  | rorDp (d : Byte)
  | rorDpx (d : Byte)
  | rorAbs (a : Word)
  | rorAbsx (a : Word)
  | incAcc
  | incDp (d : Byte)
  | incDpx (d : Byte)
  | incAbs (a : Word)
  | incAbsx (a : Word)
  | decAcc
  | decDp (d : Byte)
  | decDpx (d : Byte)
  | decAbs (a : Word)
  | decAbsx (a : Word)
  | inx
  | iny
  | dex
  | dey
  -- Transfer
  | tax
  | tay
  | txa
  | tya
  | txy
  | tyx
  | txs
  | tsx
  | tcs
  | tsc
  | tcd
  | tdc
  | xba
  -- Stack
  | pha
  | phx
  | phy
  | php
  | phb
  | phk
  | phd
  | pla
  | plx
  | ply
  | plp
  | plb
  | pld
  -- Control
  | bpl (r : Byte)
  | bmi (r : Byte)
  | bvc (r : Byte)
  | bvs (r : Byte)
  | bcc (r : Byte)
  | bcs (r : Byte)
  | bne (r : Byte)
  | beq (r : Byte)
  | bra (r : Byte)
  | jml (b : Byte) (a : Word)
  | jsl (b : Byte) (a : Word)
  | rtl
  -- Status
  | clc
  | sec
  | cli
  | sei
  | cld
  | sed
  | clv
  | rep (k : Byte)
  | sep (k : Byte)
  | xce
  | nop
  | rti
  deriving DecidableEq, Repr, Inhabited

end Sys2Proof
end

