-- ==== Sys2Proof/Decode.lean ====
section
/-! DEFINITION. Byte-order and field helpers (00_scope R8, 20_memory R65), the reading of Instr as mnemonic,
format, opcode byte and variant (30_encoding R93, R99), the encoder, the decoder (R92, R96, R97, R98) and the
host's decodeTableWord. -/

namespace Sys2Proof

/-- `lo(w)`, bits 7:0 (00_scope R8). -/
def lo (w : Word) : Byte := w.extractLsb' 0 8

/-- `hi(w)`, bits 15:8 (00_scope R8). -/
def hi (w : Word) : Byte := w.extractLsb' 8 8

/-- `h ++ l`, the word with high byte h and low byte l (00_scope R8, 20_memory R65). -/
def word (h l : Byte) : Word := h ++ l

/-- `w[7:0] <- b`: the low byte written, the high byte kept (00_scope R9, 10_state R21, R22). -/
def setLo (w : Word) (b : Byte) : Word := word (hi w) b

/-- `zext_16(b)` (00_scope R8). -/
def zext16 (b : Byte) : Word := b.setWidth 16

/-- `sext_16(r)` (00_scope R8). -/
def sext16 (r : Byte) : Word := r.signExtend 16

/-- The immediate variant an immediate operand is (30_encoding R93). -/
def Imm.variant : Imm → Variant
  | .imm8 v => .imm8 v
  | .imm16 v => .imm16 v

/-- The operand bytes of a variant in fetch order, little-endian, the bank byte last (R93, R96). -/
def Variant.bytes : Variant → List Byte
  | .imm16 v => [lo v, hi v]
  | .imm8 v => [v]
  | .abs a => [lo a, hi a]
  | .absLong b a => [lo a, hi a, b]
  | .absX a => [lo a, hi a]
  | .absLongX b a => [lo a, hi a, b]
  | .direct d => [d]
  | .directX d => [d]
  | .rel r => [r]
  | .indLongY d => [d]

/-- The mnemonic of a row (R100). -/
def Instr.mnemonic : Instr → Mnemonic
  | .ldaImm _ => .LDA
  | .ldaDp _ => .LDA
  | .ldaDpx _ => .LDA
  | .ldaAbs _ => .LDA
  | .ldaAbsx _ => .LDA
  | .ldaLong _ _ => .LDA
  | .ldaLongx _ _ => .LDA
  | .ldaIly _ => .LDA
  | .ldxImm _ => .LDX
  | .ldxDp _ => .LDX
  | .ldxAbs _ => .LDX
  | .ldyImm _ => .LDY
  | .ldyDp _ => .LDY
  | .ldyDpx _ => .LDY
  | .ldyAbs _ => .LDY
  | .ldyAbsx _ => .LDY
  | .staDp _ => .STA
  | .staDpx _ => .STA
  | .staAbs _ => .STA
  | .staAbsx _ => .STA
  | .staLong _ _ => .STA
  | .staLongx _ _ => .STA
  | .staIly _ => .STA
  | .stxDp _ => .STX
  | .stxAbs _ => .STX
  | .styDp _ => .STY
  | .styDpx _ => .STY
  | .styAbs _ => .STY
  | .stzDp _ => .STZ
  | .stzDpx _ => .STZ
  | .stzAbs _ => .STZ
  | .stzAbsx _ => .STZ
  | .adcImm _ => .ADC
  | .adcDp _ => .ADC
  | .adcDpx _ => .ADC
  | .adcAbs _ => .ADC
  | .adcAbsx _ => .ADC
  | .adcLong _ _ => .ADC
  | .adcLongx _ _ => .ADC
  | .adcIly _ => .ADC
  | .sbcImm _ => .SBC
  | .sbcDp _ => .SBC
  | .sbcDpx _ => .SBC
  | .sbcAbs _ => .SBC
  | .sbcAbsx _ => .SBC
  | .sbcLong _ _ => .SBC
  | .sbcLongx _ _ => .SBC
  | .sbcIly _ => .SBC
  | .andImm _ => .AND
  | .andDp _ => .AND
  | .andDpx _ => .AND
  | .andAbs _ => .AND
  | .andAbsx _ => .AND
  | .andLong _ _ => .AND
  | .andLongx _ _ => .AND
  | .andIly _ => .AND
  | .oraImm _ => .ORA
  | .oraDp _ => .ORA
  | .oraDpx _ => .ORA
  | .oraAbs _ => .ORA
  | .oraAbsx _ => .ORA
  | .oraLong _ _ => .ORA
  | .oraLongx _ _ => .ORA
  | .oraIly _ => .ORA
  | .eorImm _ => .EOR
  | .eorDp _ => .EOR
  | .eorDpx _ => .EOR
  | .eorAbs _ => .EOR
  | .eorAbsx _ => .EOR
  | .eorLong _ _ => .EOR
  | .eorLongx _ _ => .EOR
  | .eorIly _ => .EOR
  | .cmpImm _ => .CMP
  | .cmpDp _ => .CMP
  | .cmpDpx _ => .CMP
  | .cmpAbs _ => .CMP
  | .cmpAbsx _ => .CMP
  | .cmpLong _ _ => .CMP
  | .cmpLongx _ _ => .CMP
  | .cmpIly _ => .CMP
  | .cpxImm _ => .CPX
  | .cpxDp _ => .CPX
  | .cpxAbs _ => .CPX
  | .cpyImm _ => .CPY
  | .cpyDp _ => .CPY
  | .cpyAbs _ => .CPY
  | .bitImm _ => .BIT
  | .bitDp _ => .BIT
  | .bitDpx _ => .BIT
  | .bitAbs _ => .BIT
  | .bitAbsx _ => .BIT
  | .tsbDp _ => .TSB
  | .tsbAbs _ => .TSB
  | .trbDp _ => .TRB
  | .trbAbs _ => .TRB
  | .aslAcc => .ASL
  | .aslDp _ => .ASL
  | .aslDpx _ => .ASL
  | .aslAbs _ => .ASL
  | .aslAbsx _ => .ASL
  | .lsrAcc => .LSR
  | .lsrDp _ => .LSR
  | .lsrDpx _ => .LSR
  | .lsrAbs _ => .LSR
  | .lsrAbsx _ => .LSR
  | .rolAcc => .ROL
  | .rolDp _ => .ROL
  | .rolDpx _ => .ROL
  | .rolAbs _ => .ROL
  | .rolAbsx _ => .ROL
  | .rorAcc => .ROR
  | .rorDp _ => .ROR
  | .rorDpx _ => .ROR
  | .rorAbs _ => .ROR
  | .rorAbsx _ => .ROR
  | .incAcc => .INC
  | .incDp _ => .INC
  | .incDpx _ => .INC
  | .incAbs _ => .INC
  | .incAbsx _ => .INC
  | .decAcc => .DEC
  | .decDp _ => .DEC
  | .decDpx _ => .DEC
  | .decAbs _ => .DEC
  | .decAbsx _ => .DEC
  | .inx => .INX
  | .iny => .INY
  | .dex => .DEX
  | .dey => .DEY
  | .tax => .TAX
  | .tay => .TAY
  | .txa => .TXA
  | .tya => .TYA
  | .txy => .TXY
  | .tyx => .TYX
  | .txs => .TXS
  | .tsx => .TSX
  | .tcs => .TCS
  | .tsc => .TSC
  | .tcd => .TCD
  | .tdc => .TDC
  | .xba => .XBA
  | .pha => .PHA
  | .phx => .PHX
  | .phy => .PHY
  | .php => .PHP
  | .phb => .PHB
  | .phk => .PHK
  | .phd => .PHD
  | .pla => .PLA
  | .plx => .PLX
  | .ply => .PLY
  | .plp => .PLP
  | .plb => .PLB
  | .pld => .PLD
  | .bpl _ => .BPL
  | .bmi _ => .BMI
  | .bvc _ => .BVC
  | .bvs _ => .BVS
  | .bcc _ => .BCC
  | .bcs _ => .BCS
  | .bne _ => .BNE
  | .beq _ => .BEQ
  | .bra _ => .BRA
  | .jml _ _ => .JML
  | .jsl _ _ => .JSL
  | .rtl => .RTL
  | .clc => .CLC
  | .sec => .SEC
  | .cli => .CLI
  | .sei => .SEI
  | .cld => .CLD
  | .sed => .SED
  | .clv => .CLV
  | .rep _ => .REP
  | .sep _ => .SEP
  | .xce => .XCE
  | .nop => .NOP
  | .rti => .RTI

/-- The format of a row (R93, R100). -/
def Instr.format : Instr → Format
  | .ldaImm _ => .immM
  | .ldaDp _ => .dp
  | .ldaDpx _ => .dpx
  | .ldaAbs _ => .abs
  | .ldaAbsx _ => .absx
  | .ldaLong _ _ => .long
  | .ldaLongx _ _ => .longx
  | .ldaIly _ => .ily
  | .ldxImm _ => .immX
  | .ldxDp _ => .dp
  | .ldxAbs _ => .abs
  | .ldyImm _ => .immX
  | .ldyDp _ => .dp
  | .ldyDpx _ => .dpx
  | .ldyAbs _ => .abs
  | .ldyAbsx _ => .absx
  | .staDp _ => .dp
  | .staDpx _ => .dpx
  | .staAbs _ => .abs
  | .staAbsx _ => .absx
  | .staLong _ _ => .long
  | .staLongx _ _ => .longx
  | .staIly _ => .ily
  | .stxDp _ => .dp
  | .stxAbs _ => .abs
  | .styDp _ => .dp
  | .styDpx _ => .dpx
  | .styAbs _ => .abs
  | .stzDp _ => .dp
  | .stzDpx _ => .dpx
  | .stzAbs _ => .abs
  | .stzAbsx _ => .absx
  | .adcImm _ => .immM
  | .adcDp _ => .dp
  | .adcDpx _ => .dpx
  | .adcAbs _ => .abs
  | .adcAbsx _ => .absx
  | .adcLong _ _ => .long
  | .adcLongx _ _ => .longx
  | .adcIly _ => .ily
  | .sbcImm _ => .immM
  | .sbcDp _ => .dp
  | .sbcDpx _ => .dpx
  | .sbcAbs _ => .abs
  | .sbcAbsx _ => .absx
  | .sbcLong _ _ => .long
  | .sbcLongx _ _ => .longx
  | .sbcIly _ => .ily
  | .andImm _ => .immM
  | .andDp _ => .dp
  | .andDpx _ => .dpx
  | .andAbs _ => .abs
  | .andAbsx _ => .absx
  | .andLong _ _ => .long
  | .andLongx _ _ => .longx
  | .andIly _ => .ily
  | .oraImm _ => .immM
  | .oraDp _ => .dp
  | .oraDpx _ => .dpx
  | .oraAbs _ => .abs
  | .oraAbsx _ => .absx
  | .oraLong _ _ => .long
  | .oraLongx _ _ => .longx
  | .oraIly _ => .ily
  | .eorImm _ => .immM
  | .eorDp _ => .dp
  | .eorDpx _ => .dpx
  | .eorAbs _ => .abs
  | .eorAbsx _ => .absx
  | .eorLong _ _ => .long
  | .eorLongx _ _ => .longx
  | .eorIly _ => .ily
  | .cmpImm _ => .immM
  | .cmpDp _ => .dp
  | .cmpDpx _ => .dpx
  | .cmpAbs _ => .abs
  | .cmpAbsx _ => .absx
  | .cmpLong _ _ => .long
  | .cmpLongx _ _ => .longx
  | .cmpIly _ => .ily
  | .cpxImm _ => .immX
  | .cpxDp _ => .dp
  | .cpxAbs _ => .abs
  | .cpyImm _ => .immX
  | .cpyDp _ => .dp
  | .cpyAbs _ => .abs
  | .bitImm _ => .immM
  | .bitDp _ => .dp
  | .bitDpx _ => .dpx
  | .bitAbs _ => .abs
  | .bitAbsx _ => .absx
  | .tsbDp _ => .dp
  | .tsbAbs _ => .abs
  | .trbDp _ => .dp
  | .trbAbs _ => .abs
  | .aslAcc => .acc
  | .aslDp _ => .dp
  | .aslDpx _ => .dpx
  | .aslAbs _ => .abs
  | .aslAbsx _ => .absx
  | .lsrAcc => .acc
  | .lsrDp _ => .dp
  | .lsrDpx _ => .dpx
  | .lsrAbs _ => .abs
  | .lsrAbsx _ => .absx
  | .rolAcc => .acc
  | .rolDp _ => .dp
  | .rolDpx _ => .dpx
  | .rolAbs _ => .abs
  | .rolAbsx _ => .absx
  | .rorAcc => .acc
  | .rorDp _ => .dp
  | .rorDpx _ => .dpx
  | .rorAbs _ => .abs
  | .rorAbsx _ => .absx
  | .incAcc => .acc
  | .incDp _ => .dp
  | .incDpx _ => .dpx
  | .incAbs _ => .abs
  | .incAbsx _ => .absx
  | .decAcc => .acc
  | .decDp _ => .dp
  | .decDpx _ => .dpx
  | .decAbs _ => .abs
  | .decAbsx _ => .absx
  | .inx => .imp
  | .iny => .imp
  | .dex => .imp
  | .dey => .imp
  | .tax => .imp
  | .tay => .imp
  | .txa => .imp
  | .tya => .imp
  | .txy => .imp
  | .tyx => .imp
  | .txs => .imp
  | .tsx => .imp
  | .tcs => .imp
  | .tsc => .imp
  | .tcd => .imp
  | .tdc => .imp
  | .xba => .imp
  | .pha => .imp
  | .phx => .imp
  | .phy => .imp
  | .php => .imp
  | .phb => .imp
  | .phk => .imp
  | .phd => .imp
  | .pla => .imp
  | .plx => .imp
  | .ply => .imp
  | .plp => .imp
  | .plb => .imp
  | .pld => .imp
  | .bpl _ => .rel
  | .bmi _ => .rel
  | .bvc _ => .rel
  | .bvs _ => .rel
  | .bcc _ => .rel
  | .bcs _ => .rel
  | .bne _ => .rel
  | .beq _ => .rel
  | .bra _ => .rel
  | .jml _ _ => .long
  | .jsl _ _ => .long
  | .rtl => .imp
  | .clc => .imp
  | .sec => .imp
  | .cli => .imp
  | .sei => .imp
  | .cld => .imp
  | .sed => .imp
  | .clv => .imp
  | .rep _ => .imm8
  | .sep _ => .imm8
  | .xce => .imp
  | .nop => .imp
  | .rti => .imp

/-- The opcode byte of a row (R100). -/
def Instr.opcode : Instr → Byte
  | .ldaImm _ => 0xA9
  | .ldaDp _ => 0xA5
  | .ldaDpx _ => 0xB5
  | .ldaAbs _ => 0xAD
  | .ldaAbsx _ => 0xBD
  | .ldaLong _ _ => 0xAF
  | .ldaLongx _ _ => 0xBF
  | .ldaIly _ => 0xB7
  | .ldxImm _ => 0xA2
  | .ldxDp _ => 0xA6
  | .ldxAbs _ => 0xAE
  | .ldyImm _ => 0xA0
  | .ldyDp _ => 0xA4
  | .ldyDpx _ => 0xB4
  | .ldyAbs _ => 0xAC
  | .ldyAbsx _ => 0xBC
  | .staDp _ => 0x85
  | .staDpx _ => 0x95
  | .staAbs _ => 0x8D
  | .staAbsx _ => 0x9D
  | .staLong _ _ => 0x8F
  | .staLongx _ _ => 0x9F
  | .staIly _ => 0x97
  | .stxDp _ => 0x86
  | .stxAbs _ => 0x8E
  | .styDp _ => 0x84
  | .styDpx _ => 0x94
  | .styAbs _ => 0x8C
  | .stzDp _ => 0x64
  | .stzDpx _ => 0x74
  | .stzAbs _ => 0x9C
  | .stzAbsx _ => 0x9E
  | .adcImm _ => 0x69
  | .adcDp _ => 0x65
  | .adcDpx _ => 0x75
  | .adcAbs _ => 0x6D
  | .adcAbsx _ => 0x7D
  | .adcLong _ _ => 0x6F
  | .adcLongx _ _ => 0x7F
  | .adcIly _ => 0x77
  | .sbcImm _ => 0xE9
  | .sbcDp _ => 0xE5
  | .sbcDpx _ => 0xF5
  | .sbcAbs _ => 0xED
  | .sbcAbsx _ => 0xFD
  | .sbcLong _ _ => 0xEF
  | .sbcLongx _ _ => 0xFF
  | .sbcIly _ => 0xF7
  | .andImm _ => 0x29
  | .andDp _ => 0x25
  | .andDpx _ => 0x35
  | .andAbs _ => 0x2D
  | .andAbsx _ => 0x3D
  | .andLong _ _ => 0x2F
  | .andLongx _ _ => 0x3F
  | .andIly _ => 0x37
  | .oraImm _ => 0x09
  | .oraDp _ => 0x05
  | .oraDpx _ => 0x15
  | .oraAbs _ => 0x0D
  | .oraAbsx _ => 0x1D
  | .oraLong _ _ => 0x0F
  | .oraLongx _ _ => 0x1F
  | .oraIly _ => 0x17
  | .eorImm _ => 0x49
  | .eorDp _ => 0x45
  | .eorDpx _ => 0x55
  | .eorAbs _ => 0x4D
  | .eorAbsx _ => 0x5D
  | .eorLong _ _ => 0x4F
  | .eorLongx _ _ => 0x5F
  | .eorIly _ => 0x57
  | .cmpImm _ => 0xC9
  | .cmpDp _ => 0xC5
  | .cmpDpx _ => 0xD5
  | .cmpAbs _ => 0xCD
  | .cmpAbsx _ => 0xDD
  | .cmpLong _ _ => 0xCF
  | .cmpLongx _ _ => 0xDF
  | .cmpIly _ => 0xD7
  | .cpxImm _ => 0xE0
  | .cpxDp _ => 0xE4
  | .cpxAbs _ => 0xEC
  | .cpyImm _ => 0xC0
  | .cpyDp _ => 0xC4
  | .cpyAbs _ => 0xCC
  | .bitImm _ => 0x89
  | .bitDp _ => 0x24
  | .bitDpx _ => 0x34
  | .bitAbs _ => 0x2C
  | .bitAbsx _ => 0x3C
  | .tsbDp _ => 0x04
  | .tsbAbs _ => 0x0C
  | .trbDp _ => 0x14
  | .trbAbs _ => 0x1C
  | .aslAcc => 0x0A
  | .aslDp _ => 0x06
  | .aslDpx _ => 0x16
  | .aslAbs _ => 0x0E
  | .aslAbsx _ => 0x1E
  | .lsrAcc => 0x4A
  | .lsrDp _ => 0x46
  | .lsrDpx _ => 0x56
  | .lsrAbs _ => 0x4E
  | .lsrAbsx _ => 0x5E
  | .rolAcc => 0x2A
  | .rolDp _ => 0x26
  | .rolDpx _ => 0x36
  | .rolAbs _ => 0x2E
  | .rolAbsx _ => 0x3E
  | .rorAcc => 0x6A
  | .rorDp _ => 0x66
  | .rorDpx _ => 0x76
  | .rorAbs _ => 0x6E
  | .rorAbsx _ => 0x7E
  | .incAcc => 0x1A
  | .incDp _ => 0xE6
  | .incDpx _ => 0xF6
  | .incAbs _ => 0xEE
  | .incAbsx _ => 0xFE
  | .decAcc => 0x3A
  | .decDp _ => 0xC6
  | .decDpx _ => 0xD6
  | .decAbs _ => 0xCE
  | .decAbsx _ => 0xDE
  | .inx => 0xE8
  | .iny => 0xC8
  | .dex => 0xCA
  | .dey => 0x88
  | .tax => 0xAA
  | .tay => 0xA8
  | .txa => 0x8A
  | .tya => 0x98
  | .txy => 0x9B
  | .tyx => 0xBB
  | .txs => 0x9A
  | .tsx => 0xBA
  | .tcs => 0x1B
  | .tsc => 0x3B
  | .tcd => 0x5B
  | .tdc => 0x7B
  | .xba => 0xEB
  | .pha => 0x48
  | .phx => 0xDA
  | .phy => 0x5A
  | .php => 0x08
  | .phb => 0x8B
  | .phk => 0x4B
  | .phd => 0x0B
  | .pla => 0x68
  | .plx => 0xFA
  | .ply => 0x7A
  | .plp => 0x28
  | .plb => 0xAB
  | .pld => 0x2B
  | .bpl _ => 0x10
  | .bmi _ => 0x30
  | .bvc _ => 0x50
  | .bvs _ => 0x70
  | .bcc _ => 0x90
  | .bcs _ => 0xB0
  | .bne _ => 0xD0
  | .beq _ => 0xF0
  | .bra _ => 0x80
  | .jml _ _ => 0x5C
  | .jsl _ _ => 0x22
  | .rtl => 0x6B
  | .clc => 0x18
  | .sec => 0x38
  | .cli => 0x58
  | .sei => 0x78
  | .cld => 0xD8
  | .sed => 0xF8
  | .clv => 0xB8
  | .rep _ => 0xC2
  | .sep _ => 0xE2
  | .xce => 0xFB
  | .nop => 0xEA
  | .rti => 0x40

/-- The variant an instruction is built with, none for the formats IMP and ACC (R93, R94). -/
def Instr.variant? : Instr → Option Variant
  | .ldaImm v => some (v.variant)
  | .ldaDp d => some (.direct d)
  | .ldaDpx d => some (.directX d)
  | .ldaAbs a => some (.abs a)
  | .ldaAbsx a => some (.absX a)
  | .ldaLong b a => some (.absLong b a)
  | .ldaLongx b a => some (.absLongX b a)
  | .ldaIly d => some (.indLongY d)
  | .ldxImm v => some (v.variant)
  | .ldxDp d => some (.direct d)
  | .ldxAbs a => some (.abs a)
  | .ldyImm v => some (v.variant)
  | .ldyDp d => some (.direct d)
  | .ldyDpx d => some (.directX d)
  | .ldyAbs a => some (.abs a)
  | .ldyAbsx a => some (.absX a)
  | .staDp d => some (.direct d)
  | .staDpx d => some (.directX d)
  | .staAbs a => some (.abs a)
  | .staAbsx a => some (.absX a)
  | .staLong b a => some (.absLong b a)
  | .staLongx b a => some (.absLongX b a)
  | .staIly d => some (.indLongY d)
  | .stxDp d => some (.direct d)
  | .stxAbs a => some (.abs a)
  | .styDp d => some (.direct d)
  | .styDpx d => some (.directX d)
  | .styAbs a => some (.abs a)
  | .stzDp d => some (.direct d)
  | .stzDpx d => some (.directX d)
  | .stzAbs a => some (.abs a)
  | .stzAbsx a => some (.absX a)
  | .adcImm v => some (v.variant)
  | .adcDp d => some (.direct d)
  | .adcDpx d => some (.directX d)
  | .adcAbs a => some (.abs a)
  | .adcAbsx a => some (.absX a)
  | .adcLong b a => some (.absLong b a)
  | .adcLongx b a => some (.absLongX b a)
  | .adcIly d => some (.indLongY d)
  | .sbcImm v => some (v.variant)
  | .sbcDp d => some (.direct d)
  | .sbcDpx d => some (.directX d)
  | .sbcAbs a => some (.abs a)
  | .sbcAbsx a => some (.absX a)
  | .sbcLong b a => some (.absLong b a)
  | .sbcLongx b a => some (.absLongX b a)
  | .sbcIly d => some (.indLongY d)
  | .andImm v => some (v.variant)
  | .andDp d => some (.direct d)
  | .andDpx d => some (.directX d)
  | .andAbs a => some (.abs a)
  | .andAbsx a => some (.absX a)
  | .andLong b a => some (.absLong b a)
  | .andLongx b a => some (.absLongX b a)
  | .andIly d => some (.indLongY d)
  | .oraImm v => some (v.variant)
  | .oraDp d => some (.direct d)
  | .oraDpx d => some (.directX d)
  | .oraAbs a => some (.abs a)
  | .oraAbsx a => some (.absX a)
  | .oraLong b a => some (.absLong b a)
  | .oraLongx b a => some (.absLongX b a)
  | .oraIly d => some (.indLongY d)
  | .eorImm v => some (v.variant)
  | .eorDp d => some (.direct d)
  | .eorDpx d => some (.directX d)
  | .eorAbs a => some (.abs a)
  | .eorAbsx a => some (.absX a)
  | .eorLong b a => some (.absLong b a)
  | .eorLongx b a => some (.absLongX b a)
  | .eorIly d => some (.indLongY d)
  | .cmpImm v => some (v.variant)
  | .cmpDp d => some (.direct d)
  | .cmpDpx d => some (.directX d)
  | .cmpAbs a => some (.abs a)
  | .cmpAbsx a => some (.absX a)
  | .cmpLong b a => some (.absLong b a)
  | .cmpLongx b a => some (.absLongX b a)
  | .cmpIly d => some (.indLongY d)
  | .cpxImm v => some (v.variant)
  | .cpxDp d => some (.direct d)
  | .cpxAbs a => some (.abs a)
  | .cpyImm v => some (v.variant)
  | .cpyDp d => some (.direct d)
  | .cpyAbs a => some (.abs a)
  | .bitImm v => some (v.variant)
  | .bitDp d => some (.direct d)
  | .bitDpx d => some (.directX d)
  | .bitAbs a => some (.abs a)
  | .bitAbsx a => some (.absX a)
  | .tsbDp d => some (.direct d)
  | .tsbAbs a => some (.abs a)
  | .trbDp d => some (.direct d)
  | .trbAbs a => some (.abs a)
  | .aslAcc => none
  | .aslDp d => some (.direct d)
  | .aslDpx d => some (.directX d)
  | .aslAbs a => some (.abs a)
  | .aslAbsx a => some (.absX a)
  | .lsrAcc => none
  | .lsrDp d => some (.direct d)
  | .lsrDpx d => some (.directX d)
  | .lsrAbs a => some (.abs a)
  | .lsrAbsx a => some (.absX a)
  | .rolAcc => none
  | .rolDp d => some (.direct d)
  | .rolDpx d => some (.directX d)
  | .rolAbs a => some (.abs a)
  | .rolAbsx a => some (.absX a)
  | .rorAcc => none
  | .rorDp d => some (.direct d)
  | .rorDpx d => some (.directX d)
  | .rorAbs a => some (.abs a)
  | .rorAbsx a => some (.absX a)
  | .incAcc => none
  | .incDp d => some (.direct d)
  | .incDpx d => some (.directX d)
  | .incAbs a => some (.abs a)
  | .incAbsx a => some (.absX a)
  | .decAcc => none
  | .decDp d => some (.direct d)
  | .decDpx d => some (.directX d)
  | .decAbs a => some (.abs a)
  | .decAbsx a => some (.absX a)
  | .inx => none
  | .iny => none
  | .dex => none
  | .dey => none
  | .tax => none
  | .tay => none
  | .txa => none
  | .tya => none
  | .txy => none
  | .tyx => none
  | .txs => none
  | .tsx => none
  | .tcs => none
  | .tsc => none
  | .tcd => none
  | .tdc => none
  | .xba => none
  | .pha => none
  | .phx => none
  | .phy => none
  | .php => none
  | .phb => none
  | .phk => none
  | .phd => none
  | .pla => none
  | .plx => none
  | .ply => none
  | .plp => none
  | .plb => none
  | .pld => none
  | .bpl r => some (.rel r)
  | .bmi r => some (.rel r)
  | .bvc r => some (.rel r)
  | .bvs r => some (.rel r)
  | .bcc r => some (.rel r)
  | .bcs r => some (.rel r)
  | .bne r => some (.rel r)
  | .beq r => some (.rel r)
  | .bra r => some (.rel r)
  | .jml b a => some (.absLong b a)
  | .jsl b a => some (.absLong b a)
  | .rtl => none
  | .clc => none
  | .sec => none
  | .cli => none
  | .sei => none
  | .cld => none
  | .sed => none
  | .clv => none
  | .rep k => some (.imm8 k)
  | .sep k => some (.imm8 k)
  | .xce => none
  | .nop => none
  | .rti => none

/-- What an opcode byte expects after it: nothing, one operand byte (IMM8, DP, DPX, ILY, REL), a word
(ABS, ABSX), a word and a bank (LONG, LONGX), or an immediate of the accumulator's or the index
registers' width (IMMM, IMMX) (R93). -/
inductive OpForm where
  | none (i : Instr)
  | byte (f : Byte → Instr)
  | word (f : Word → Instr)
  | long (f : Byte → Word → Instr)
  | immM (f : Imm → Instr)
  | immX (f : Imm → Instr)

/-- How many operand bytes follow the opcode byte, by the width predicates of the moment (R97, R98). -/
def OpForm.operandBytes (m8 x8 : Bool) : OpForm → Nat
  | .none _ => 0
  | .byte _ => 1
  | .word _ => 2
  | .long _ => 3
  | .immM _ => if m8 then 1 else 2
  | .immX _ => if x8 then 1 else 2

/-- An immediate of the width `narrow` says, from the front of the bytes (R97). -/
def takeImm (narrow : Bool) (f : Imm → Instr) : List Byte → Option (Instr × List Byte)
  | [] => Option.none
  | b1 :: bs =>
    if narrow then some (f (.imm8 b1), bs)
    else match bs with
      | [] => Option.none
      | b2 :: bs => some (f (.imm16 (word b2 b1)), bs)

/-- The operand assembled from the bytes after the opcode byte, and the bytes left over (R96). -/
def OpForm.take (m8 x8 : Bool) : OpForm → List Byte → Option (Instr × List Byte)
  | .none i, bs => some (i, bs)
  | .byte f, b1 :: bs => some (f b1, bs)
  | .word f, b1 :: b2 :: bs => some (f (Sys2Proof.word b2 b1), bs)
  | .long f, b1 :: b2 :: b3 :: bs => some (f b3 (Sys2Proof.word b2 b1), bs)
  | .immM f, bs => takeImm m8 f bs
  | .immX f, bs => takeImm x8 f bs
  | .byte _, [] => Option.none
  | .word _, [] => Option.none
  | .word _, [_] => Option.none
  | .long _, [] => Option.none
  | .long _, [_] => Option.none
  | .long _, [_, _] => Option.none

/-- Row 0x of the opcode map (R99). -/
def opRow0 : List (Option OpForm) :=
  [ .none, .none, .none, .none,
    some (.byte .tsbDp), some (.byte .oraDp), some (.byte .aslDp), .none,
    some (.none .php), some (.immM .oraImm), some (.none .aslAcc), some (.none .phd),
    some (.word .tsbAbs), some (.word .oraAbs), some (.word .aslAbs), some (.long .oraLong) ]

/-- Row 1x of the opcode map (R99). -/
def opRow1 : List (Option OpForm) :=
  [ some (.byte .bpl), .none, .none, .none,
    some (.byte .trbDp), some (.byte .oraDpx), some (.byte .aslDpx), some (.byte .oraIly),
    some (.none .clc), .none, some (.none .incAcc), some (.none .tcs),
    some (.word .trbAbs), some (.word .oraAbsx), some (.word .aslAbsx), some (.long .oraLongx) ]

/-- Row 2x of the opcode map (R99). -/
def opRow2 : List (Option OpForm) :=
  [ .none, .none, some (.long .jsl), .none,
    some (.byte .bitDp), some (.byte .andDp), some (.byte .rolDp), .none,
    some (.none .plp), some (.immM .andImm), some (.none .rolAcc), some (.none .pld),
    some (.word .bitAbs), some (.word .andAbs), some (.word .rolAbs), some (.long .andLong) ]

/-- Row 3x of the opcode map (R99). -/
def opRow3 : List (Option OpForm) :=
  [ some (.byte .bmi), .none, .none, .none,
    some (.byte .bitDpx), some (.byte .andDpx), some (.byte .rolDpx), some (.byte .andIly),
    some (.none .sec), .none, some (.none .decAcc), some (.none .tsc),
    some (.word .bitAbsx), some (.word .andAbsx), some (.word .rolAbsx), some (.long .andLongx) ]

/-- Row 4x of the opcode map (R99). -/
def opRow4 : List (Option OpForm) :=
  [ some (.none .rti), .none, .none, .none,
    .none, some (.byte .eorDp), some (.byte .lsrDp), .none,
    some (.none .pha), some (.immM .eorImm), some (.none .lsrAcc), some (.none .phk),
    .none, some (.word .eorAbs), some (.word .lsrAbs), some (.long .eorLong) ]

/-- Row 5x of the opcode map (R99). -/
def opRow5 : List (Option OpForm) :=
  [ some (.byte .bvc), .none, .none, .none,
    .none, some (.byte .eorDpx), some (.byte .lsrDpx), some (.byte .eorIly),
    some (.none .cli), .none, some (.none .phy), some (.none .tcd),
    some (.long .jml), some (.word .eorAbsx), some (.word .lsrAbsx), some (.long .eorLongx) ]

/-- Row 6x of the opcode map (R99). -/
def opRow6 : List (Option OpForm) :=
  [ .none, .none, .none, .none,
    some (.byte .stzDp), some (.byte .adcDp), some (.byte .rorDp), .none,
    some (.none .pla), some (.immM .adcImm), some (.none .rorAcc), some (.none .rtl),
    .none, some (.word .adcAbs), some (.word .rorAbs), some (.long .adcLong) ]

/-- Row 7x of the opcode map (R99). -/
def opRow7 : List (Option OpForm) :=
  [ some (.byte .bvs), .none, .none, .none,
    some (.byte .stzDpx), some (.byte .adcDpx), some (.byte .rorDpx), some (.byte .adcIly),
    some (.none .sei), .none, some (.none .ply), some (.none .tdc),
    .none, some (.word .adcAbsx), some (.word .rorAbsx), some (.long .adcLongx) ]

/-- Row 8x of the opcode map (R99). -/
def opRow8 : List (Option OpForm) :=
  [ some (.byte .bra), .none, .none, .none,
    some (.byte .styDp), some (.byte .staDp), some (.byte .stxDp), .none,
    some (.none .dey), some (.immM .bitImm), some (.none .txa), some (.none .phb),
    some (.word .styAbs), some (.word .staAbs), some (.word .stxAbs), some (.long .staLong) ]

/-- Row 9x of the opcode map (R99). -/
def opRow9 : List (Option OpForm) :=
  [ some (.byte .bcc), .none, .none, .none,
    some (.byte .styDpx), some (.byte .staDpx), .none, some (.byte .staIly),
    some (.none .tya), .none, some (.none .txs), some (.none .txy),
    some (.word .stzAbs), some (.word .staAbsx), some (.word .stzAbsx), some (.long .staLongx) ]

/-- Row Ax of the opcode map (R99). -/
def opRowA : List (Option OpForm) :=
  [ some (.immX .ldyImm), .none, some (.immX .ldxImm), .none,
    some (.byte .ldyDp), some (.byte .ldaDp), some (.byte .ldxDp), .none,
    some (.none .tay), some (.immM .ldaImm), some (.none .tax), some (.none .plb),
    some (.word .ldyAbs), some (.word .ldaAbs), some (.word .ldxAbs), some (.long .ldaLong) ]

/-- Row Bx of the opcode map (R99). -/
def opRowB : List (Option OpForm) :=
  [ some (.byte .bcs), .none, .none, .none,
    some (.byte .ldyDpx), some (.byte .ldaDpx), .none, some (.byte .ldaIly),
    some (.none .clv), .none, some (.none .tsx), some (.none .tyx),
    some (.word .ldyAbsx), some (.word .ldaAbsx), .none, some (.long .ldaLongx) ]

/-- Row Cx of the opcode map (R99). -/
def opRowC : List (Option OpForm) :=
  [ some (.immX .cpyImm), .none, some (.byte .rep), .none,
    some (.byte .cpyDp), some (.byte .cmpDp), some (.byte .decDp), .none,
    some (.none .iny), some (.immM .cmpImm), some (.none .dex), .none,
    some (.word .cpyAbs), some (.word .cmpAbs), some (.word .decAbs), some (.long .cmpLong) ]

/-- Row Dx of the opcode map (R99). -/
def opRowD : List (Option OpForm) :=
  [ some (.byte .bne), .none, .none, .none,
    .none, some (.byte .cmpDpx), some (.byte .decDpx), some (.byte .cmpIly),
    some (.none .cld), .none, some (.none .phx), .none,
    .none, some (.word .cmpAbsx), some (.word .decAbsx), some (.long .cmpLongx) ]

/-- Row Ex of the opcode map (R99). -/
def opRowE : List (Option OpForm) :=
  [ some (.immX .cpxImm), .none, some (.byte .sep), .none,
    some (.byte .cpxDp), some (.byte .sbcDp), some (.byte .incDp), .none,
    some (.none .inx), some (.immM .sbcImm), some (.none .nop), some (.none .xba),
    some (.word .cpxAbs), some (.word .sbcAbs), some (.word .incAbs), some (.long .sbcLong) ]

/-- Row Fx of the opcode map (R99). -/
def opRowF : List (Option OpForm) :=
  [ some (.byte .beq), .none, .none, .none,
    .none, some (.byte .sbcDpx), some (.byte .incDpx), some (.byte .sbcIly),
    some (.none .sed), .none, some (.none .plx), some (.none .xce),
    .none, some (.word .sbcAbsx), some (.word .incAbsx), some (.long .sbcLongx) ]

/-- The opcode map: sixteen rows of sixteen cells, the row the high nibble, `none` an illegal opcode (R99). -/
def opRows : List (List (Option OpForm)) :=
  [opRow0, opRow1, opRow2, opRow3, opRow4, opRow5, opRow6, opRow7]
    ++ [opRow8, opRow9, opRowA, opRowB, opRowC, opRowD, opRowE, opRowF]

/-- The cell of an opcode byte (R99). -/
def opForm (op : Byte) : Option OpForm :=
  (opRows.getD (op.toNat / 16) []).getD (op.toNat % 16) .none

/-- Why bytes are no instruction: there are none; the opcode byte is one of the 77 illegal ones (R101); or
operand bytes are missing. -/
inductive DecodeError where
  | empty
  | illegalOpcode (op : Byte)
  | truncated (op : Byte)
  deriving DecidableEq, Repr, Inhabited

/-- The decoder: the instruction at the front of the bytes under the width predicates `m8` and `x8`, and the
bytes after it; total, rejecting by name (R92, R97). -/
def decode (m8 x8 : Bool) : List Byte → Except DecodeError (Instr × List Byte)
  | [] => .error .empty
  | op :: bs =>
    match opForm op with
    | Option.none => .error (.illegalOpcode op)
    | some f =>
      match f.take m8 x8 bs with
      | Option.none => .error (.truncated op)
      | some r => .ok r

/-- The first `n` bytes of a number, byte 0 its least significant (the numbering of the opcode table). -/
def bytesOfNat : Nat → Nat → List Byte
  | 0, _ => []
  | n + 1, w => BitVec.ofNat 8 w :: bytesOfNat n (w / 256)

/-- The longest instruction has four bytes (R90). -/
def maxLength : Nat := 4

/-- The bytes of a table word: its `nbits` low bits, zero above them, up to the longest instruction. -/
def tableBytes (nbits w : Nat) : List Byte := bytesOfNat maxLength (w % 2 ^ nbits)

/-- What the decoder reads from a table word, with the width predicates of the reset state, where both hold
(log 18). -/
def decodeTableWord (nbits w : Nat) : Option Instr :=
  match decode true true (tableBytes nbits w) with
  | .error _ => Option.none
  | .ok r => some r.1

/-- The bytes of an instruction: the opcode byte, then the operand bytes of its variant (R90, R93, R96). -/
def encode (i : Instr) : List Byte :=
  i.opcode :: match i.variant? with
    | none => []
    | some am => am.bytes

end Sys2Proof
end

