-- ==== Sys2Proof/Config.lean ====
section
/-! DEFINITION. The parameters of 00_scope R7 as plain data (State carries one `Config`, which no step
changes, so every statement about every state holds for every choice of them), and what an answer of the black
boxes of R6 consists of (48 R343); the answers themselves are the constants without a body of Machine/State. -/

namespace Sys2Proof

/-- `CALL_STACK_ORDER` (46 R282, 90_conflicts C3). -/
inductive CallStackOrder where
  | pbrOnTop
  | pbrDeepest
  deriving DecidableEq, Repr, Inhabited

/-- `SPRITE_LOOKUP` (49 R382). -/
inductive SpriteLookup where
  | firstCovering
  | firstOpaque
  deriving DecidableEq, Repr, Inhabited

/-- A sprite size in pixels (49 R372); a width that is no multiple of 8 is admitted (log 30). -/
structure ObjSize where
  width  : Nat
  height : Nat
  deriving DecidableEq, Repr, Inhabited

/-- A row of `OBJ_SIZE_TABLE`: the sizes for size-toggle bit 0 and 1 (49 R372). -/
structure ObjSizeRow where
  small : ObjSize
  large : ObjSize
  deriving DecidableEq, Repr, Inhabited

/-- The number of bitplanes of a layer: n = 2, 4 or 8 (49 R389). -/
inductive Depth where
  | two
  | four
  | eight
  deriving DecidableEq, Repr, Inhabited

/-- A candidate of the priority mixer: `Sprite(p)` or `Bg(b, p)`; layer b of the spec is index b - 1
here, and the priority bit of a background is a Bool (49 R380). -/
inductive Candidate where
  | sprite (p : BitVec 2)
  | bg (b : Fin 4) (p : Bool)
  deriving DecidableEq, Repr, Inhabited

/-- A row of `BG_MODE_TABLE`: the depth of each present layer, and the candidate order (49 R390). -/
structure BgModeRow where
  depth : Vector (Option Depth) 4
  order : List Candidate
  deriving DecidableEq, Repr, Inhabited

/-- `DEBUG_REGION`: width, height and the colour indexes of its pixels, row by row (49 R381; log 25). -/
structure DebugRegion where
  width  : Nat
  height : Nat
  index  : List Byte
  deriving DecidableEq, Repr, Inhabited

/-- The geometry of the dot counter (00_scope R7, 49 R361). -/
structure Geometry where
  dotsPerLine   : Nat
  linesPerFrame : Nat
  visibleW      : Nat
  visibleH      : Nat
  hblankDot     : Nat
  vblankLine    : Nat
  deriving DecidableEq, Repr, Inhabited

/-- What stands behind a window of the bus (20 R62, log 4): memory; the DMA-enable register (R75); a
register holding enable bits, one mask per flag, a zero mask where the register does not hold that flag
(48 R339, R340, log 23); or a device whose behaviour is the integrator's (R68, log 5). -/
inductive WindowKind where
  | memory
  | dmaEnable
  | enables (nmi hv hdma : Byte)
  | device
  deriving DecidableEq, Repr, Inhabited

/-- One window of the integrator's address map: `size` bytes from bus address `base` on; the first of them is
byte `backing` behind the bus, so that windows may name the same bytes (log 4). -/
structure Window where
  base     : Nat
  size     : Nat
  backing  : Nat
  kind     : WindowKind
  readable : Bool
  writable : Bool
  deriving DecidableEq, Repr, Inhabited

/-- `BUS`: the address map; the first window that covers an address answers, an address no window
covers is unmapped (20 R60 to R64). `mirror` is the mirroring of the first 8 KB of working RAM (R64): where
working RAM lives, or none on a bus without the mirroring. -/
structure BusMap where
  mirror  : Option Nat
  windows : List Window
  deriving DecidableEq, Repr, Inhabited

/-- The parameters of 00_scope R7 that have no document value. `opTable` is `OPTABLE`: for each opcode byte the
row of 30_encoding R100 it is recognised as, named by that row's own byte, or none (log 16). -/
structure Config where
  opTable           : Vector (Option Byte) 256
  cycles            : Vector Nat 256
  cpuMasterRatio    : Nat
  apuDivisor        : Nat
  dotMasterCycles   : Nat
  nmiVectorNative   : Word
  nmiVectorEmu      : Word
  callStackOrder    : CallStackOrder
  vramBytes         : Nat
  geometry          : Geometry
  objSizeTable      : Vector ObjSizeRow 8
  bgModeTable       : Vector (Option BgModeRow) 8
  spriteLookup      : SpriteLookup
  debugRegion       : DebugRegion
  bus               : BusMap
  deriving DecidableEq, Repr

/-- One entry of object-attribute memory; `x` is the signed 9-bit position (10 R41). -/
structure OamEntry where
  tile    : Byte
  x       : BitVec 9
  y       : Byte
  prio    : BitVec 2
  palette : BitVec 3
  hflip   : Bool
  vflip   : Bool
  size    : Bool
  name    : Bool
  deriving DecidableEq, Repr, Inhabited

/-- The registers of one background layer; the two bases are word addresses in VRAM (10 R43, log 15). -/
structure BgLayer where
  hofs       : BitVec 10
  vofs       : BitVec 10
  mapBase    : Nat
  mapHmirror : Bool
  mapVmirror : Bool
  chrBase    : Nat
  deriving DecidableEq, Repr, Inhabited

/-- The sprite configuration (10 R44). -/
structure ObjConfig where
  sizeSel    : BitVec 3
  nameBase   : BitVec 3
  nameSelect : BitVec 2
  oamFirst   : BitVec 7
  deriving DecidableEq, Repr, Inhabited

/-- One change a device behind the bus makes: to the memory behind it (20 R68), to the picture memories and
registers (10 R39, R43, R44), the three enable flags (10 R38, 48 R340), the clearing of `irq_pending` (48 R338)
and of the two overflow conditions (10 R46). -/
inductive DeviceWrite where
  | mem (a : Nat) (v : Byte)
  | vram (a : Nat) (v : Byte)
  | oam (i : Fin 128) (e : OamEntry)
  | cgram (k : Fin 256) (c : BitVec 15)
  | layer (b : Fin 4) (r : BgLayer)
  | bgMode (m : BitVec 3)
  | obj (c : ObjConfig)
  | nmiEnable (b : Bool)
  | hvIrqEnable (b : Bool)
  | hdmaEnable (b : Bool)
  | irqPendingClear
  | rangeOverClear
  | timeOverClear
  deriving DecidableEq, Repr, Inhabited

/-- The fault predicate of a device (20 R60, R61, D41): its address is unmapped, or the access violates it. -/
inductive LoadTrap where
  | unmapped
  | violation
  deriving DecidableEq, Repr, Inhabited

/-- What a store to a device may raise: a bus fault, or one of the two traps of 48 R340 inside the store. -/
inductive StoreTrap where
  | bus (t : LoadTrap)
  | hdma
  | counterIrq
  deriving DecidableEq, Repr, Inhabited

/-- What a device load answers: the fault it raises, if any; else the byte, what the read changes, and the black
boxes' own state after it (20 R60, R68). -/
structure DeviceAnswer where
  trap    : Option LoadTrap
  value   : Byte
  effects : List DeviceWrite
  hidden  : Nat
  deriving DecidableEq, Repr, Inhabited

/-- What a device store answers (20 R61, R68). -/
structure DeviceReaction where
  trap    : Option StoreTrap
  effects : List DeviceWrite
  hidden  : Nat
  deriving DecidableEq, Repr, Inhabited

/-- One access of a DMA run (48 R327). -/
inductive DmaAccess where
  | load (b : Byte) (o : Word)
  | store (b : Byte) (o : Word) (v : Byte)
  | device (w : DeviceWrite)
  deriving DecidableEq, Repr, Inhabited

/-- What one DMA run does: its accesses in order, the master cycles it consumed (48 R329), and the black boxes'
own state at its start. -/
structure DmaAnswer where
  accesses : List DmaAccess
  cycles   : Nat
  hidden   : Nat
  deriving DecidableEq, Repr, Inhabited

/-- What one audio step answers: one less than its cycles (48 R325), and the black boxes' own state after it. -/
structure ApuAnswer where
  extra  : Nat
  hidden : Nat
  deriving DecidableEq, Repr, Inhabited

end Sys2Proof
end

