-- ==== Sys2Proof/Machine/Params.lean ====
section
/-! DEFINITION. The values the spec suggests for the parameters (00_scope R7), none a fact about the hardware
(log 2), and which parameter values the spec tells a model to refuse (93_implementation_defined items 18, 30). -/

namespace Sys2Proof.Machine

/-- Rows 0x to 3x of the suggested `CYCLES` table; 0 stands for the cells of illegal opcodes (70 R489). -/
def cycleRows0 : List Nat :=
  [0, 0, 0, 0, 5, 3, 5, 0, 3, 2, 2, 4, 6, 4, 6, 5]
    ++ [2, 0, 0, 0, 5, 4, 6, 6, 2, 0, 2, 2, 6, 4, 7, 5]
    ++ [0, 0, 8, 0, 3, 3, 5, 0, 4, 2, 2, 5, 4, 4, 6, 5]
    ++ [2, 0, 0, 0, 4, 4, 6, 6, 2, 0, 2, 2, 4, 4, 7, 5]

/-- Rows 4x to 7x (R489). -/
def cycleRows4 : List Nat :=
  [6, 0, 0, 0, 0, 3, 5, 0, 3, 2, 2, 3, 0, 4, 6, 5]
    ++ [2, 0, 0, 0, 0, 4, 6, 6, 2, 0, 3, 2, 4, 4, 7, 5]
    ++ [0, 0, 0, 0, 3, 3, 5, 0, 4, 2, 2, 6, 0, 4, 6, 5]
    ++ [2, 0, 0, 0, 4, 4, 6, 6, 2, 0, 4, 2, 0, 4, 7, 5]

/-- Rows 8x to Bx (R489). -/
def cycleRows8 : List Nat :=
  [3, 0, 0, 0, 3, 3, 3, 0, 2, 2, 2, 3, 4, 4, 4, 5]
    ++ [2, 0, 0, 0, 4, 4, 0, 6, 2, 0, 2, 2, 4, 5, 5, 5]
    ++ [2, 0, 2, 0, 3, 3, 3, 0, 2, 2, 2, 4, 4, 4, 4, 5]
    ++ [2, 0, 0, 0, 4, 4, 0, 6, 2, 0, 2, 2, 4, 4, 0, 5]

/-- Rows Cx to Fx (R489). -/
def cycleRowsC : List Nat :=
  [2, 0, 3, 0, 3, 3, 5, 0, 2, 2, 2, 0, 4, 4, 6, 5]
    ++ [2, 0, 0, 0, 0, 4, 6, 6, 2, 0, 3, 0, 0, 4, 7, 5]
    ++ [2, 0, 3, 0, 3, 3, 5, 0, 2, 2, 2, 3, 4, 4, 6, 5]
    ++ [2, 0, 0, 0, 0, 4, 6, 6, 2, 0, 4, 2, 0, 4, 7, 5]

theorem cycleRows_length :
    (cycleRows0 ++ cycleRows4 ++ cycleRows8 ++ cycleRowsC).length = 256 := by
  have h0 : cycleRows0.length = 64 := by decide
  have h4 : cycleRows4.length = 64 := by decide
  have h8 : cycleRows8.length = 64 := by decide
  have hC : cycleRowsC.length = 64 := by decide
  simp [h0, h4, h8, hC]

/-- The suggested `CYCLES` table (R489, D43). -/
def defaultCycles : Vector Nat 256 :=
  ⟨⟨cycleRows0 ++ cycleRows4 ++ cycleRows8 ++ cycleRowsC⟩, cycleRows_length⟩

/-- The suggested `OBJ_SIZE_TABLE` (49 R372, D30). -/
def defaultObjSizes : Vector ObjSizeRow 8 :=
  ⟨#[⟨⟨8, 8⟩, ⟨16, 16⟩⟩, ⟨⟨8, 8⟩, ⟨32, 32⟩⟩, ⟨⟨8, 8⟩, ⟨64, 64⟩⟩, ⟨⟨16, 16⟩, ⟨32, 32⟩⟩,
     ⟨⟨16, 16⟩, ⟨64, 64⟩⟩, ⟨⟨32, 32⟩, ⟨64, 64⟩⟩, ⟨⟨16, 32⟩, ⟨32, 64⟩⟩, ⟨⟨16, 32⟩, ⟨32, 32⟩⟩], rfl⟩

/-- BG mode 0: four layers of 2 planes, order S3 1H 2H S2 1L 2L S1 3H 4H S0 3L 4L (49 R390). -/
def bgMode0 : BgModeRow :=
  { depth := ⟨#[some .two, some .two, some .two, some .two], rfl⟩
    order := [.sprite 3, .bg 0 true, .bg 1 true, .sprite 2, .bg 0 false, .bg 1 false,
      .sprite 1, .bg 2 true, .bg 3 true, .sprite 0, .bg 2 false, .bg 3 false] }

/-- BG mode 1: BG1 and BG2 of 4 planes, BG3 of 2, order S3 1H 2H S2 1L 2L S1 3H S0 3L (R390). -/
def bgMode1 : BgModeRow :=
  { depth := ⟨#[some .four, some .four, some .two, none], rfl⟩
    order := [.sprite 3, .bg 0 true, .bg 1 true, .sprite 2, .bg 0 false, .bg 1 false,
      .sprite 1, .bg 2 true, .sprite 0, .bg 2 false] }

/-- BG mode 3: BG1 of 8 planes, BG2 of 4, order S3 1H S2 2H S1 1L S0 2L (R390). -/
def bgMode3 : BgModeRow :=
  { depth := ⟨#[some .eight, some .four, none, none], rfl⟩
    order := [.sprite 3, .bg 0 true, .sprite 2, .bg 1 true, .sprite 1, .bg 0 false,
      .sprite 0, .bg 1 false] }

/-- The suggested `BG_MODE_TABLE`: modes 0, 1 and 3 (R390, R391, D34). -/
def defaultBgModes : Vector (Option BgModeRow) 8 :=
  ⟨#[some bgMode0, some bgMode1, none, some bgMode3, none, none, none, none], rfl⟩

/-- The suggested geometry: 341 dots, 262 lines, 256 by 224 visible, horizontal blank at dot 274, vertical
blank at line 225 (R7, D29). -/
def defaultGeometry : Geometry :=
  { dotsPerLine := 341, linesPerFrame := 262, visibleW := 256, visibleH := 224,
    hblankDot := 274, vblankLine := 225 }

/-- A bus that is readable and writable memory everywhere, with the document's mirroring of the first 8 KB of
working RAM, which lies at bank 0 (20 R64, D41; log 4). -/
def defaultBus : BusMap :=
  { mirror := some 0
    windows := [{ base := 0, size := 0x1000000, backing := 0, kind := .memory, readable := true,
                  writable := true }] }

/-- The default cell of `OPTABLE`: the byte's own row of R100, none for the 77 illegal bytes (30 R100, R101). -/
def defaultOpRow (op : Byte) : Option Byte :=
  match opForm op with
  | none => none
  | some _ => some op

/-- The default `OPTABLE` (30 R100). -/
def defaultOpTable : Vector (Option Byte) 256 :=
  ⟨⟨(List.range 256).map fun n => defaultOpRow (BitVec.ofNat 8 n)⟩, by simp⟩

/-- The parameters with the values the spec suggests (00_scope R7, log 2). -/
def defaultConfig : Config :=
  { opTable := defaultOpTable
    cycles := defaultCycles
    cpuMasterRatio := 6
    apuDivisor := 21
    dotMasterCycles := 4
    nmiVectorNative := 0xFFEA
    nmiVectorEmu := 0xFFFA
    callStackOrder := .pbrOnTop
    vramBytes := 65536
    geometry := defaultGeometry
    objSizeTable := defaultObjSizes
    bgModeTable := defaultBgModes
    spriteLookup := .firstCovering
    debugRegion := { width := 0, height := 0, index := [] }
    bus := defaultBus }

/-- The parameter values a model does not refuse: positive ratios, and a geometry whose visible area and
blank positions lie inside the frame (93 items 18 and 30; log 14). -/
def configOk (c : Config) : Bool :=
  decide (0 < c.cpuMasterRatio) && decide (0 < c.apuDivisor) && decide (0 < c.dotMasterCycles)
    && decide (c.geometry.visibleW ≤ c.geometry.dotsPerLine)
    && decide (c.geometry.visibleH ≤ c.geometry.linesPerFrame)
    && decide (c.geometry.hblankDot < c.geometry.dotsPerLine)
    && decide (c.geometry.vblankLine < c.geometry.linesPerFrame)

end Sys2Proof.Machine
end

