-- ==== Sys2Proof/Machine/State.lean ====
section
/-! DEFINITION. The state of the CORE as plain data (10_state, 48, 49), the fatal traps (60 R421), the refusals,
the free values of the black boxes (48 R343), and the state after reset (10 R50, 70 R470). -/

namespace Sys2Proof.Machine

/-- The kind of bus access a `BusAccessViolation` records (20 R60, R61). -/
inductive Access where
  | read
  | write
  deriving DecidableEq, Repr, Inhabited

/-- The fatal traps (60 R421), in the order of their codes, each with the info it records. All end the run
(R420). Each is safe: the machine stops where the spec says it stops. -/
inductive Fault where
  /-- Code 1, raised by the fetch on an opcode byte outside the recognised set (30 R101): byte, bank, offset. -/
  | illegalOpcode (op : Byte) (pbr : Byte) (pc : Word)
  /-- Code 2, raised by `address` on an immediate variant (40 R130); no instruction stream reaches it (R137). -/
  | addressOfImmediate (am : Variant)
  /-- Code 3, raised by `loadb`, `loadw` on an immediate of the other width (40 R132, R133); unreachable (R137). -/
  | immediateWidthMismatch (am : Variant)
  /-- Code 4, raised by `storeb`, `storew` on an immediate variant (40 R134, R135); unreachable (R137). -/
  | storeToImmediate (am : Variant)
  /-- Code 5, raised by a word data access at offset 0xFFFF (20 R66). -/
  | wordCrossesBank (b : Byte) (o : Word)
  /-- Code 6, raised by `address` when base plus index is 2^24 or more (40 R125, R129): bank, offset, index. -/
  | addressOverflow24 (b : Byte) (o : Word) (index : Word)
  /-- Code 7, raised by REP and SEP with E = 1 (47 R308, R310): opcode byte, mask. -/
  | privilegedFlagInEmulation (op : Byte) (mask : Byte)
  /-- Code 8, raised by the bus on an address no window covers (20 R60, R61). -/
  | busUnmapped (b : Byte) (o : Word)
  /-- Code 9, raised by the bus on a read of a window that is not readable or a write to one not writable. -/
  | busAccessViolation (b : Byte) (o : Word) (k : Access)
  /-- Code 10, raised by the scheduler when `hdma_enable` is 1 (48 R340). -/
  | unsupportedHdma
  /-- Code 11, raised by the scheduler when `hv_irq_enable` is 1 (48 R340). -/
  | unsupportedCounterIrq
  /-- Code 12, raised by `pixel` under a mode outside `BG_MODE_TABLE` (49 R391). -/
  | unsupportedBgMode (mode : BitVec 3)
  /-- Code 13, raised by `address` of `AbsX` when offset plus index exceeds 0xFFFF (40 R124): DBR, offset, index. -/
  | indexOverflow16 (dbr : Byte) (a : Word) (index : Word)
  /-- Code 14, raised by ADC and SBC with P.d = 1 (42 R171): opcode byte, and its bank and offset (log 12). -/
  | decimalArithmetic (op : Byte) (pbr : Byte) (pc : Word)
  /-- Code 15, raised by `address` of `IndLongY` when the pointer starts above 0xFFFD (40 R129): its offset. -/
  | pointerCrossesBank (p : Word)
  deriving DecidableEq, Repr, Inhabited

/-- Why the model answers nothing. -/
inductive Refusal where
  /-- Raised by exec's arm of an instruction that has no meaning yet; safe. -/
  | notModelled (mnemonic : String)
  /-- Raised by step when the parameters are ones the spec tells a model to refuse (93 items 18, 30; log 14);
  safe: such a machine is outside the spec. -/
  | invalidConfiguration
  deriving DecidableEq, Repr, Inhabited

/-- The CPU register file (10 R20 to R32). -/
structure Cpu where
  a   : Word
  x   : Word
  y   : Word
  s   : Word
  d   : Word
  dbr : Byte
  pbr : Byte
  pc  : Word
  p   : Byte
  e   : Bool
  deriving DecidableEq, Repr, Inhabited

/-- The scheduler and the interrupt controller (10 R38). -/
structure Sched where
  master      : Nat
  apuDebt     : Int
  ppuDebt     : Int
  irqPending  : Bool
  nmiEnable   : Bool
  hvIrqEnable : Bool
  hdmaEnable  : Bool
  dmaCycles   : Nat
  deriving DecidableEq, Repr, Inhabited

/-- The picture state the pipeline reads and never writes (10 R39 to R44); layer b of the spec is index
b - 1 of `layers`. `vram` lists the bytes that are not 0x00. -/
structure Picture where
  vram   : List Host.Cell
  oam    : Vector OamEntry 128
  cgram  : Vector (BitVec 15) 256
  layers : Vector BgLayer 4
  bgMode : BitVec 3
  obj    : ObjConfig
  deriving DecidableEq, Repr

/-- A visible-sprite-tile descriptor (10 R47, 49 R377). -/
structure Tile where
  chr     : Nat
  sx      : Int
  ty      : Nat
  prio    : BitVec 2
  palette : BitVec 3
  deriving DecidableEq, Repr, Inhabited

/-- A pixel: red, green and blue (10 R48). -/
structure Rgb where
  r : Byte
  g : Byte
  b : Byte
  deriving DecidableEq, Repr, Inhabited

/-- What the pipeline writes: the dot counters (10 R45), the overflow conditions (R46), the scanline's tile
list (R47) and the pixels produced, keyed by line and x (R48, log 20). -/
structure Dots where
  h         : Nat
  v         : Nat
  rangeOver : Bool
  timeOver  : Bool
  tiles     : List Tile
  tilesLine : Option Nat
  frame     : List (Nat × Rgb)
  deriving DecidableEq, Repr, Inhabited

/-- The model's own fields for the black boxes (log 8): their own state, coded as one number, and the input
latches so far. -/
structure Box where
  hidden  : Nat
  latches : Nat
  deriving DecidableEq, Repr, Inhabited

/-- Memory behind the bus: the bytes that are not 0x00, addresses strictly rising (20 R63, log 3). -/
abbrev Memory := List Host.Cell

/-- The state of the CORE. -/
structure State where
  halt  : Option Fault
  cpu   : Cpu
  sched : Sched
  pic   : Picture
  dots  : Dots
  mem   : Memory
  box   : Box
  cfg   : Config
  deriving DecidableEq, Repr

end Sys2Proof.Machine

namespace Sys2Proof

/-! ### The free values: whatever the machine's state is, the black boxes may answer anything (48 R343) -/

/-- Free value (log 7): what an audio step in state `s` answers; `apu_step` returns any n >= 1 (48 R325). -/
opaque Config.freeApuStep (s : Machine.State) : ApuAnswer

/-- Free value (log 8): the black boxes' own state after an input latch in state `s` (48 R327). -/
opaque Config.freeInputLatch (s : Machine.State) : Nat

/-- Free value (log 5): what the device at byte `a` behind the bus answers to a load in state `s` (20 R68). -/
opaque Config.freeDeviceLoad (s : Machine.State) (a : Nat) : DeviceAnswer

/-- Free value (log 5): what a store of `v` to the device at byte `a` behind the bus does in state `s` (20 R61,
R68). -/
opaque Config.freeDeviceStore (s : Machine.State) (a : Nat) (v : Byte) : DeviceReaction

/-- Free value (log 6): what a DMA run with channel mask `mask` in state `s` does (20 R75, 48 R327). -/
opaque Config.freeDma (s : Machine.State) (mask : Byte) : DmaAnswer

end Sys2Proof

namespace Sys2Proof.Machine

/-- The CPU registers after reset, with the reset vector's word as PC (10 R50). -/
def Cpu.reset (pc : Word) : Cpu :=
  { a := 0x0000, x := 0x0000, y := 0x0000, s := 0x01FF, d := 0x0000, dbr := 0x00, pbr := 0x00,
    pc := pc, p := 0x34, e := true }

/-- The scheduler after reset (10 R50). -/
def Sched.reset : Sched :=
  { master := 0, apuDebt := 0, ppuDebt := 0, irqPending := false, nmiEnable := false,
    hvIrqEnable := false, hdmaEnable := false, dmaCycles := 0 }

/-- The pipeline's own state after reset (10 R50). -/
def Dots.reset : Dots :=
  { h := 0, v := 0, rangeOver := false, timeOver := false, tiles := [], tilesLine := none, frame := [] }

/-- The black boxes at the start (log 8). -/
def Box.reset : Box := { hidden := 0, latches := 0 }

/-- Launch contents for the picture state, all zero; the spec gives none (10 R50, log 9). -/
def Picture.zero : Picture :=
  { vram := []
    oam := Vector.replicate 128
      { tile := 0, x := 0, y := 0, prio := 0, palette := 0, hflip := false, vflip := false,
        size := false, name := false }
    cgram := Vector.replicate 256 0
    layers := Vector.replicate 4
      { hofs := 0, vofs := 0, mapBase := 0, mapHmirror := false, mapVmirror := false, chrBase := 0 }
    bgMode := 0
    obj := { sizeSel := 0, nameBase := 0, nameSelect := 0, oamFirst := 0 } }

/-- The machine right after reset (10 R50, 70 R470): every register at the value of R50, PC the word at
00:FFFC of a memory with nothing listed (log 3, log 17), the picture launch contents zero (log 9), the
parameters at the spec's suggested values (log 2). -/
def State.reset : State :=
  { halt := none, cpu := Cpu.reset 0x0000, sched := Sched.reset, pic := Picture.zero,
    dots := Dots.reset, mem := [], box := Box.reset, cfg := defaultConfig }

end Sys2Proof.Machine
end

