-- ==== Sys2Proof/Machine/Cells.lean ====
section
/-! DEFINITION. Sparse contents as lists of (key, value) pairs with keys strictly rising: the memory behind the
bus, VRAM and the pixels produced. -/

namespace Sys2Proof.Machine

/-- The value listed for a key, if any. -/
def cellFind? {α : Type} : List (Nat × α) → Nat → Option α
  | [], _ => none
  | (k, v) :: t, a => if a = k then some v else cellFind? t a

/-- The list with `v` for key `a`, in its place. -/
def cellPut {α : Type} (a : Nat) (v : α) : List (Nat × α) → List (Nat × α)
  | [] => [(a, v)]
  | (k, w) :: t =>
    if a < k then (a, v) :: (k, w) :: t
    else if a = k then (a, v) :: t
    else (k, w) :: cellPut a v t

/-- The list without key `a`. -/
def cellDrop {α : Type} (a : Nat) : List (Nat × α) → List (Nat × α)
  | [] => []
  | (k, w) :: t => if a = k then t else (k, w) :: cellDrop a t

/-- What an unlisted byte reads as (log 3). -/
def unlisted : Byte := 0x00

/-- The byte at an address. -/
def bytesRead (m : List Host.Cell) (a : Nat) : Byte := (cellFind? m a).getD unlisted

/-- The contents with byte `v` at address `a`; a byte equal to what an unlisted one reads as is not listed. -/
def bytesWrite (m : List Host.Cell) (a : Nat) (v : Byte) : List Host.Cell :=
  if v = unlisted then cellDrop a m else cellPut a v m

/-- The canonical form: keys strictly rising and below `bound`, no listed byte equal to `unlisted`. -/
abbrev bytesWf (bound : Nat) (m : List Host.Cell) : Prop :=
  m.Pairwise (fun p q => p.1 < q.1) ∧ ∀ c ∈ m, c.1 < bound ∧ c.2 ≠ unlisted

/-- The 24-bit address space (20 R63). -/
def addressSpace : Nat := 0x1000000

/-- The canonical form of the memory behind the bus. -/
abbrev Memory.wf (m : Memory) : Prop := bytesWf addressSpace m

end Sys2Proof.Machine
end

