-- ==== Sys2Proof/Machine/Flags.lean ====
section
/-! DEFINITION. The status byte (10_state R29) and every flag computation: the N and Z helper (00_scope R12), the
binary additions (42 R172, R173), compares (R177), bit tests (R180 to R182), shifts and rotates (43 R201 to
R204), increments (R205, R206). A computation takes P, the register value and the operand at width W = 8 or 16
and gives the result and the new P. -/

namespace Sys2Proof.Machine

/-- The flags of P (10 R29). -/
inductive Flag where
  | n | v | m | x | d | i | z | c
  deriving DecidableEq, Repr, Inhabited

/-- The bit of a flag (10 R29). -/
def Flag.bit : Flag → Nat
  | .n => 7
  | .v => 6
  | .m => 5
  | .x => 4
  | .d => 3
  | .i => 2
  | .z => 1
  | .c => 0

/-- The flag's bit alone. -/
def Flag.mask (f : Flag) : Byte := 1#8 <<< f.bit

/-- `P.f`. -/
def getFlag (p : Byte) (f : Flag) : Bool := p.getLsbD f.bit

/-- `P.f <- b`, every other bit kept. -/
def setFlag (p : Byte) (f : Flag) (b : Bool) : Byte := if b then p ||| f.mask else p &&& ~~~f.mask

/-- `setnz8` (W = 8) and `setnz16` (W = 16): Z from the value being 0, N from its top bit (00 R12). -/
def setnz {w : Nat} (p : Byte) (v : BitVec w) : Byte :=
  setFlag (setFlag p .z (v == 0#w)) .n v.msb

/-- A flag computation at width W: from P, the register value and the operand, the result and the new P. -/
abbrev Alu := (w : Nat) → Byte → BitVec w → BitVec w → BitVec w × Byte

/-- The operand itself, with N and Z from it: loads, pulls and transfers (41 R150, 44 R220). -/
def loadAlu : Alu := fun _ p _ v => (v, setnz p v)

/-- ADC in binary (42 R172). -/
def adcAlu : Alu := fun w p a v =>
  let s := a.toNat + v.toNat + (getFlag p .c).toNat
  let r := BitVec.ofNat w s
  (r, setnz (setFlag (setFlag p .c (decide (s > 2 ^ w - 1))) .v ((a ^^^ r) &&& (v ^^^ r)).msb) r)

/-- SBC in binary: the operand complemented, then as ADC (42 R173). -/
def sbcAlu : Alu := fun w p a v => adcAlu w p a (~~~v)

/-- AND (42 R174). -/
def andAlu : Alu := fun _ p a v => (a &&& v, setnz p (a &&& v))

/-- ORA (42 R175). -/
def oraAlu : Alu := fun _ p a v => (a ||| v, setnz p (a ||| v))

/-- EOR (42 R176). -/
def eorAlu : Alu := fun _ p a v => (a ^^^ v, setnz p (a ^^^ v))

/-- CMP, CPX, CPY: C from the unsigned comparison, N and Z from the difference; the register is kept
(42 R177). -/
def cmpAlu : Alu := fun _ p a v => (a, setnz (setFlag p .c (decide (v.toNat ≤ a.toNat))) (a - v))

/-- BIT in the memory forms: Z from the and, N and V from the operand's two top bits (42 R180). -/
def bitAlu : Alu := fun w p a v =>
  (a, setFlag (setFlag (setFlag p .z ((a &&& v) == 0#w)) .n v.msb) .v (v.getLsbD (w - 2)))

/-- BIT in the immediate form: Z only (42 R180). -/
def bitImmAlu : Alu := fun w p a v => (a, setFlag p .z ((a &&& v) == 0#w))

/-- TSB: the accumulator's bits set, Z from the and with the value read (42 R181). -/
def tsbAlu : Alu := fun w p a v => (v ||| a, setFlag p .z ((a &&& v) == 0#w))

/-- TRB: the accumulator's bits cleared, Z from the and with the value read (42 R182). -/
def trbAlu : Alu := fun w p a v => (v &&& ~~~a, setFlag p .z ((a &&& v) == 0#w))

/-- ASL: bit MSB to C, 0 into bit 0 (43 R201). -/
def aslAlu : Alu := fun _ p _ v => (v <<< 1, setnz (setFlag p .c v.msb) (v <<< 1))

/-- LSR: bit 0 to C, 0 into bit MSB (43 R202). -/
def lsrAlu : Alu := fun _ p _ v => (v >>> 1, setnz (setFlag p .c (v.getLsbD 0)) (v >>> 1))

/-- ROL: bit MSB to C, the old C into bit 0 (43 R203). -/
def rolAlu : Alu := fun w p _ v =>
  let r := (v <<< 1) ||| BitVec.ofNat w (getFlag p .c).toNat
  (r, setnz (setFlag p .c v.msb) r)

/-- ROR: bit 0 to C, the old C into bit MSB (43 R204). -/
def rorAlu : Alu := fun w p _ v =>
  let r := (v >>> 1) ||| (BitVec.ofNat w (getFlag p .c).toNat <<< (w - 1))
  (r, setnz (setFlag p .c (v.getLsbD 0)) r)

/-- INC, INX, INY: C and V kept (43 R205). -/
def incAlu : Alu := fun w p _ v => (v + 1#w, setnz p (v + 1#w))

/-- DEC, DEX, DEY: C and V kept (43 R206). -/
def decAlu : Alu := fun w p _ v => (v - 1#w, setnz p (v - 1#w))

end Sys2Proof.Machine
end

