-- ==== Sys2Proof/Machine/Ops.lean ====
section
/-! DEFINITION. The named operations over registers and memory: sequencing, the width predicates and register
accessors (10_state), the bus with its devices and DMA (20_memory), the fetch of a byte (30 R91), the stack
primitives (45 R240 to R243), the interrupt entry (60 R432) and the return from it (47 R312). -/

namespace Sys2Proof.Machine

/-! ### Sequencing -/

/-- An operation that delivers a value, then the rest; a fatal trap ends everything (00 R11, R13). -/
def readThen {α β : Type} (r : Except Fault (α × State)) (k : α → State → Except Fault β) :
    Except Fault β :=
  match r with
  | .error f => .error f
  | .ok (a, s) => k a s

/-- An operation without a value, then the rest (00 R11, R13). -/
def writeThen {β : Type} (r : Except Fault State) (k : State → Except Fault β) : Except Fault β :=
  match r with
  | .error f => .error f
  | .ok s => k s

/-- What an instruction answers: a fatal trap is the fault outcome (60 R420, log 11). -/
def finish (r : Except Fault State) : Host.Outcome State Fault Refusal :=
  match r with
  | .error f => .fault f
  | .ok s => .next s

/-! ### Registers and widths -/

/-- `m8` (10 R33). -/
def State.m8 (s : State) : Bool := s.cpu.e || getFlag s.cpu.p .m

/-- `x8` (10 R33). -/
def State.x8 (s : State) : Bool := s.cpu.e || getFlag s.cpu.p .x

/-- `XI`, the value of X as an index or a transfer source (10 R26). -/
def State.xi (s : State) : Word := if s.x8 then zext16 (lo s.cpu.x) else s.cpu.x

/-- `YI` (10 R26). -/
def State.yi (s : State) : Word := if s.x8 then zext16 (lo s.cpu.y) else s.cpu.y

/-- The three width-sensitive registers. -/
inductive Reg where
  | a | x | y
  deriving DecidableEq, Repr, Inhabited

/-- The register's width predicate: `m8` for A, `x8` for X and Y (10 R33). -/
def State.narrow (s : State) : Reg → Bool
  | .a => s.m8
  | .x => s.x8
  | .y => s.x8

/-- All 16 bits of a register. -/
def State.reg (s : State) : Reg → Word
  | .a => s.cpu.a
  | .x => s.cpu.x
  | .y => s.cpu.y

/-- `r <- v`, all 16 bits. -/
def State.setReg (s : State) (r : Reg) (v : Word) : State :=
  match r with
  | .a => { s with cpu := { s.cpu with a := v } }
  | .x => { s with cpu := { s.cpu with x := v } }
  | .y => { s with cpu := { s.cpu with y := v } }

/-- `r[7:0] <- v`, the high byte kept (10 R21, R22). -/
def State.setRegLo (s : State) (r : Reg) (v : Byte) : State := s.setReg r (setLo (s.reg r) v)

/-- `P <- p`. -/
def State.setP (s : State) (p : Byte) : State := { s with cpu := { s.cpu with p := p } }

/-- `S <- v`. -/
def State.setS (s : State) (v : Word) : State := { s with cpu := { s.cpu with s := v } }

/-- `D <- v`. -/
def State.setD (s : State) (v : Word) : State := { s with cpu := { s.cpu with d := v } }

/-- `DBR <- v`. -/
def State.setDbr (s : State) (v : Byte) : State := { s with cpu := { s.cpu with dbr := v } }

/-- `PC <- o`. -/
def State.setPc (s : State) (o : Word) : State := { s with cpu := { s.cpu with pc := o } }

/-- `PBR <- b; PC <- o`: a control transfer writes both (46 R270). -/
def State.jump (s : State) (b : Byte) (o : Word) : State :=
  { s with cpu := { s.cpu with pbr := b, pc := o } }

/-- `E <- b`. -/
def State.setE (s : State) (b : Bool) : State := { s with cpu := { s.cpu with e := b } }

/-- `P.f <- b`. -/
def State.setPFlag (s : State) (f : Flag) (b : Bool) : State := s.setP (setFlag s.cpu.p f b)

/-- N and Z from a value (00 R12). -/
def State.setNz {w : Nat} (s : State) (v : BitVec w) : State := s.setP (setnz s.cpu.p v)

/-- The stack page of emulation mode: `0x01 ++ b` (10 R23; `STACK_PAGE_EMU`, 00 R7). -/
def stackPage (b : Byte) : Word := word 0x01 b

/-! ### The bus -/

/-- The 24-bit number of (bank, offset) (20 R63). -/
def addr24 (b : Byte) (o : Word) : Nat := b.toNat * 65536 + o.toNat

/-- Whether (bank, offset) names one of the mirrored first 8 KB of working RAM (20 R64). -/
def mirrored (b : Byte) (o : Word) : Bool :=
  decide (o.toNat < 0x2000)
    && (decide (b.toNat ≤ 0x3F) || (decide (0x80 ≤ b.toNat) && decide (b.toNat ≤ 0xBF)))

/-- The address the map is asked for: a mirrored byte is the byte of working RAM at the same offset from its
start (20 R64, log 4). -/
def mapAddr (m : BusMap) (b : Byte) (o : Word) : Nat :=
  match m.mirror with
  | none => addr24 b o
  | some r => if mirrored b o then r + o.toNat else addr24 b o

/-- The window that answers an address, if any (20 R62). -/
def windowAt (m : BusMap) (a : Nat) : Option Window :=
  m.windows.find? (fun w => decide (w.base ≤ a) && decide (a < w.base + w.size))

/-- The byte behind the bus an address reaches through the window that answers it (log 4). -/
def backed (m : BusMap) (a : Nat) : Nat :=
  match windowAt m a with
  | none => a % addressSpace
  | some w => (w.backing + (a - w.base)) % addressSpace

/-- The byte behind the bus that (bank, offset) names: two addresses may name one byte (20 R64, log 4). -/
def busAddr (m : BusMap) (b : Byte) (o : Word) : Nat := backed m (mapAddr m b o)

/-- The byte behind this machine's bus that (bank, offset) names. -/
def State.busAddr (s : State) (b : Byte) (o : Word) : Nat := Sys2Proof.Machine.busAddr s.cfg.bus b o

/-- The window that answers (bank, offset). -/
def State.window (s : State) (b : Byte) (o : Word) : Option Window :=
  windowAt s.cfg.bus (mapAddr s.cfg.bus b o)

/-- The black boxes' own state after a call (log 8). -/
def State.setHidden (s : State) (n : Nat) : State := { s with box := { s.box with hidden := n } }

/-- One change by a device: to memory, the picture state, the enable flags, or a flag the bus may clear (20 R68,
10 R35, R38, R46, 48 R338 to R340; log 5). -/
def deviceWrite (w : DeviceWrite) (s : State) : State :=
  match w with
  | .mem a v => { s with mem := bytesWrite s.mem (a % addressSpace) v }
  | .vram a v => { s with pic := { s.pic with vram := bytesWrite s.pic.vram (a % s.cfg.vramBytes) v } }
  | .oam i e => { s with pic := { s.pic with oam := s.pic.oam.set i e } }
  | .cgram k c => { s with pic := { s.pic with cgram := s.pic.cgram.set k c } }
  | .layer b r => { s with pic := { s.pic with layers := s.pic.layers.set b r } }
  | .bgMode m => { s with pic := { s.pic with bgMode := m } }
  | .obj c => { s with pic := { s.pic with obj := c } }
  | .nmiEnable b => { s with sched := { s.sched with nmiEnable := b } }
  | .hvIrqEnable b => { s with sched := { s.sched with hvIrqEnable := b } }
  | .hdmaEnable b => { s with sched := { s.sched with hdmaEnable := b } }
  | .irqPendingClear => { s with sched := { s.sched with irqPending := false } }
  | .rangeOverClear => { s with dots := { s.dots with rangeOver := false } }
  | .timeOverClear => { s with dots := { s.dots with timeOver := false } }

/-- Changes by a device, in order. -/
def deviceWrites : List DeviceWrite → State → State
  | [], s => s
  | w :: ws, s => deviceWrites ws (deviceWrite w s)

/-- A load from a register of the bus: any byte, any effect (20 R60, R68; log 5). -/
def registerLoad (a : Nat) (s : State) : Byte × State :=
  let r := Config.freeDeviceLoad s a
  (r.value, deviceWrites r.effects (s.setHidden r.hidden))

/-- The trap a device raises on a load (20 R60). -/
def loadTrapFault (t : LoadTrap) (k : Access) (b : Byte) (o : Word) : Fault :=
  match t with
  | .unmapped => .busUnmapped b o
  | .violation => .busAccessViolation b o k

/-- The trap a device raises on a store: a bus fault, or an unsupported feature's trap inside the store (20 R61,
48 R340). -/
def storeTrapFault (t : StoreTrap) (b : Byte) (o : Word) : Fault :=
  match t with
  | .bus t => loadTrapFault t .write b o
  | .hdma => .unsupportedHdma
  | .counterIrq => .unsupportedCounterIrq

/-- A load from a device window: a trap, or any byte and any effect (20 R60, R68; log 5). -/
def deviceLoad (b : Byte) (o : Word) (s : State) : Except Fault (Byte × State) :=
  match (Config.freeDeviceLoad s (s.busAddr b o)).trap with
  | some t => .error (loadTrapFault t .read b o)
  | none => .ok (registerLoad (s.busAddr b o) s)

/-- A store to a device window: a trap, or any effect (20 R61, R68; log 5). -/
def deviceStore (b : Byte) (o : Word) (v : Byte) (s : State) : Except Fault State :=
  let r := Config.freeDeviceStore s (s.busAddr b o) v
  match r.trap with
  | some t => .error (storeTrapFault t b o)
  | none => .ok (deviceWrites r.effects (s.setHidden r.hidden))

/-- The enable bit a stored byte holds for a flag; a zero mask is no such bit (log 23). -/
def enableBit (mask v : Byte) (old : Bool) : Bool :=
  if mask = 0 then old else decide (v &&& mask ≠ 0)

/-- A store to a register that holds enable bits. It never traps itself: the trap of an unsupported feature comes at
the start of the next iteration (48 R339, R340; log 23). -/
def storeEnables (nmi hv hdma v : Byte) (s : State) : State :=
  { s with sched := { s.sched with
      nmiEnable := enableBit nmi v s.sched.nmiEnable
      hvIrqEnable := enableBit hv v s.sched.hvIrqEnable
      hdmaEnable := enableBit hdma v s.sched.hdmaEnable } }

/-- `BusLoad(bank, addr)` (20 R60). -/
def busLoad (b : Byte) (o : Word) (s : State) : Except Fault (Byte × State) :=
  match s.window b o with
  | none => .error (.busUnmapped b o)
  | some w =>
    if w.readable then
      match w.kind with
      | .memory => .ok (bytesRead s.mem (s.busAddr b o), s)
      | .dmaEnable => .ok (registerLoad (s.busAddr b o) s)
      | .enables _ _ _ => .ok (registerLoad (s.busAddr b o) s)
      | .device => deviceLoad b o s
    else .error (.busAccessViolation b o .read)

/-- The byte stored by memory at (bank, offset). -/
def State.storeByte (s : State) (b : Byte) (o : Word) (v : Byte) : State :=
  { s with mem := bytesWrite s.mem (s.busAddr b o) v }

/-- `BusStore` without a DMA run: what a store of the DMA collaborator itself does (20 R61; log 6). -/
def busStorePlain (b : Byte) (o : Word) (v : Byte) (s : State) : Except Fault State :=
  match s.window b o with
  | none => .error (.busUnmapped b o)
  | some w =>
    if w.writable then
      match w.kind with
      | .memory => .ok (s.storeByte b o v)
      | .dmaEnable => .ok s
      | .enables nmi hv hdma => .ok (storeEnables nmi hv hdma v s)
      | .device => deviceStore b o v s
    else .error (.busAccessViolation b o .write)

/-- One access of a DMA run (48 R327). -/
def dmaAccess (x : DmaAccess) (s : State) : Except Fault State :=
  match x with
  | .load b o => readThen (busLoad b o s) fun _ s => .ok s
  | .store b o v => busStorePlain b o v s
  | .device w => .ok (deviceWrite w s)

/-- The accesses of a DMA run, in order. -/
def dmaAccesses : List DmaAccess → State → Except Fault State
  | [], s => .ok s
  | x :: xs, s => writeThen (dmaAccess x s) (dmaAccesses xs)

/-- `dma_cycles <- dma_cycles + n` (48 R329). -/
def State.stealCycles (s : State) (n : Nat) : State :=
  { s with sched := { s.sched with dmaCycles := s.sched.dmaCycles + n } }

/-- `dma_run(mask)` inside the store that starts it: all its accesses, then its cycles added (20 R75, 48
R329; log 6). -/
def runDma (mask : Byte) (s : State) : Except Fault State :=
  let r := Config.freeDma s mask
  writeThen (dmaAccesses r.accesses (s.setHidden r.hidden)) fun s => .ok (s.stealCycles r.cycles)

/-- `BusStore(bank, addr, v)` (20 R61, R75). -/
def busStore (b : Byte) (o : Word) (v : Byte) (s : State) : Except Fault State :=
  match s.window b o with
  | none => .error (.busUnmapped b o)
  | some w =>
    if w.writable then
      match w.kind with
      | .memory => .ok (s.storeByte b o v)
      | .dmaEnable => runDma v s
      | .enables nmi hv hdma => .ok (storeEnables nmi hv hdma v s)
      | .device => deviceStore b o v s
    else .error (.busAccessViolation b o .write)

/-- A word load, low byte first (20 R67). -/
def busLoadWord (b : Byte) (o : Word) (s : State) : Except Fault (Word × State) :=
  readThen (busLoad b o s) fun l s =>
  readThen (busLoad b (o + 1) s) fun h s => .ok (word h l, s)

/-- A word store, low byte first (20 R67). -/
def busStoreWord (b : Byte) (o : Word) (v : Word) (s : State) : Except Fault State :=
  writeThen (busStore b o (lo v) s) fun s => busStore b (o + 1) (hi v) s

/-! ### Fetch -/

/-- `fetchb()` (30 R91): PC wraps inside the bank (10 R28). -/
def fetchb (s : State) : Except Fault (Byte × State) :=
  readThen (busLoad s.cpu.pbr s.cpu.pc s) fun b s => .ok (b, s.setPc (s.cpu.pc + 1))

/-- `n` bytes by `fetchb`. -/
def fetchBytes : Nat → State → Except Fault (List Byte × State)
  | 0, s => .ok ([], s)
  | n + 1, s =>
    readThen (fetchb s) fun b s =>
    readThen (fetchBytes n s) fun bs s => .ok (b :: bs, s)

/-! ### The stack -/

/-- The stack pointer after a push: in emulation mode only the low byte moves (45 R240). -/
def stackDown (e : Bool) (sp : Word) : Word := if e then stackPage (lo sp - 1) else sp - 1

/-- The stack pointer after a pop (45 R242). -/
def stackUp (e : Bool) (sp : Word) : Word := if e then stackPage (lo sp + 1) else sp + 1

/-- `pushb(v)` (45 R240). -/
def pushb (v : Byte) (s : State) : Except Fault State :=
  writeThen (busStore 0x00 s.cpu.s v s) fun s => .ok (s.setS (stackDown s.cpu.e s.cpu.s))

/-- `pushw(w)`: high byte first (45 R241). -/
def pushw (v : Word) (s : State) : Except Fault State :=
  writeThen (pushb (hi v) s) (pushb (lo v))

/-- `popb()` (45 R242). -/
def popb (s : State) : Except Fault (Byte × State) :=
  busLoad 0x00 (stackUp s.cpu.e s.cpu.s) (s.setS (stackUp s.cpu.e s.cpu.s))

/-- `popw()`: low byte first (45 R243). -/
def popw (s : State) : Except Fault (Word × State) :=
  readThen (popb s) fun l s =>
  readThen (popb s) fun h s => .ok (word h l, s)

/-! ### The interrupt -/

/-- The frame the entry pushes: in native mode the program bank first, then PC and P (60 R432). -/
def pushFrame (s : State) : Except Fault State :=
  if s.cpu.e then writeThen (pushw s.cpu.pc s) (pushb s.cpu.p)
  else writeThen (pushb s.cpu.pbr s) fun t => writeThen (pushw s.cpu.pc t) (pushb s.cpu.p)

/-- The vector of the mode (60 R432). -/
def State.nmiVector (s : State) : Word := if s.cpu.e then s.cfg.nmiVectorEmu else s.cfg.nmiVectorNative

/-- `cpu_interrupt()`: the frame, then `P.i <- 1`, `P.d <- 0`, `PBR <- 0`, PC from the vector (60 R432;
log 13 for a vector at 0xFFFF). -/
def cpuInterrupt (s : State) : Except Fault State :=
  writeThen (pushFrame s) fun t =>
  let t := (t.setP (setFlag (setFlag t.cpu.p .i true) .d false)).jump 0x00 t.cpu.pc
  readThen (busLoadWord 0x00 s.nmiVector t) fun pc t => .ok (t.setPc pc)

/-- The return from the interrupt, RTI: P, PC and in native mode PBR from the stack (47 R312). -/
def returnFromInterrupt (s : State) : Except Fault State :=
  readThen (popb s) fun p s =>
  readThen (popw (s.setP p)) fun pc s =>
  let s := s.setPc pc
  if s.cpu.e then .ok s
  else readThen (popb s) fun b s => .ok (s.jump b pc)

end Sys2Proof.Machine
end

