-- ==== Sys2Proof/Machine/Operands.lean ====
section
/-! DEFINITION. The addressing-mode engine: effective addresses (40 R122 to R131), the four accessors (R132 to
R135), the read-modify-write primitive (43 R200), and the shapes instructions share over them. -/

namespace Sys2Proof.Machine

/-- (bank, offset) of a 24-bit number (40 R125, R129). -/
def splitAddr (t : Nat) : Byte × Word := (BitVec.ofNat 8 (t / 65536), BitVec.ofNat 16 t)

/-- Base plus index in the 24-bit space, trapping past its end (40 R125, R129). -/
def indexLong (b : Byte) (a index : Word) (s : State) : Except Fault ((Byte × Word) × State) :=
  if addr24 b a + index.toNat ≥ 0x1000000 then .error (.addressOverflow24 b a index)
  else .ok (splitAddr (addr24 b a + index.toNat), s)

/-- The offset of a direct operand, wrapping mod 2^16 (40 R126). -/
def directOffset (d : Byte) (s : State) : Word := s.cpu.d + zext16 d

/-- `address(am)` (40 R122 to R131). -/
def address (am : Variant) (s : State) : Except Fault ((Byte × Word) × State) :=
  match am with
  | .imm8 v => .error (.addressOfImmediate (.imm8 v))
  | .imm16 v => .error (.addressOfImmediate (.imm16 v))
  | .abs a => .ok ((s.cpu.dbr, a), s)
  | .absLong b a => .ok ((b, a), s)
  | .absX a =>
    if a.toNat + s.xi.toNat > 0xFFFF then .error (.indexOverflow16 s.cpu.dbr a s.xi)
    else .ok ((s.cpu.dbr, a + s.xi), s)
  | .absLongX b a => indexLong b a s.xi s
  | .direct d => .ok ((0x00, directOffset d s), s)
  | .directX d => .ok ((0x00, directOffset d s + s.xi), s)
  | .rel r => .ok ((s.cpu.pbr, s.cpu.pc + sext16 r), s)
  | .indLongY d =>
    let p := directOffset d s
    if p.toNat > 0xFFFD then .error (.pointerCrossesBank p)
    else
      readThen (busLoad 0x00 p s) fun l s =>
      readThen (busLoad 0x00 (p + 1) s) fun m s =>
      readThen (busLoad 0x00 (p + 2) s) fun h s => indexLong h (word m l) s.yi s

/-- The check of a word access: offset 0xFFFF traps (20 R66). -/
def checkWord {β : Type} (b : Byte) (o : Word) (k : Except Fault β) : Except Fault β :=
  if o = 0xFFFF then .error (.wordCrossesBank b o) else k

/-- `loadb(am)` (40 R132). -/
def loadb (am : Variant) (s : State) : Except Fault (Byte × State) :=
  match am with
  | .imm8 v => .ok (v, s)
  | .imm16 v => .error (.immediateWidthMismatch (.imm16 v))
  | am => readThen (address am s) fun t s => busLoad t.1 t.2 s

/-- `loadw(am)` (40 R133). -/
def loadw (am : Variant) (s : State) : Except Fault (Word × State) :=
  match am with
  | .imm16 v => .ok (v, s)
  | .imm8 v => .error (.immediateWidthMismatch (.imm8 v))
  | am => readThen (address am s) fun t s => checkWord t.1 t.2 (busLoadWord t.1 t.2 s)

/-- `storeb(am, v)` (40 R134). -/
def storeb (am : Variant) (v : Byte) (s : State) : Except Fault State :=
  match am with
  | .imm8 k => .error (.storeToImmediate (.imm8 k))
  | .imm16 k => .error (.storeToImmediate (.imm16 k))
  | am => readThen (address am s) fun t s => busStore t.1 t.2 v s

/-- `storew(am, v)` (40 R135). -/
def storew (am : Variant) (v : Word) (s : State) : Except Fault State :=
  match am with
  | .imm8 k => .error (.storeToImmediate (.imm8 k))
  | .imm16 k => .error (.storeToImmediate (.imm16 k))
  | am => readThen (address am s) fun t s => checkWord t.1 t.2 (busStoreWord t.1 t.2 v s)

/-! ### Shapes over the accessors -/

/-- A width-W result written to a register with the new P: 8 bits write the low byte only (42 R170). -/
def put8 (r : Reg) (o : Byte × Byte) (s : State) : State := (s.setRegLo r o.1).setP o.2

/-- The 16-bit case of `put8`. -/
def put16 (r : Reg) (o : Word × Byte) (s : State) : State := (s.setReg r o.1).setP o.2

/-- Fetch the operand once at the register's width, then compute (41 R150, 42 R170). -/
def regOperand (f : Alu) (r : Reg) (am : Variant) (s : State) : Except Fault State :=
  if s.narrow r then
    readThen (loadb am s) fun v s => .ok (put8 r (f 8 s.cpu.p (lo (s.reg r)) v) s)
  else
    readThen (loadw am s) fun v s => .ok (put16 r (f 16 s.cpu.p (s.reg r) v) s)

/-- The same on the register alone (43 R200 format ACC, R207 to R210). -/
def regAlone (f : Alu) (r : Reg) (s : State) : State :=
  if s.narrow r then put8 r (f 8 s.cpu.p (lo (s.reg r)) (lo (s.reg r))) s
  else put16 r (f 16 s.cpu.p (s.reg r) (s.reg r)) s

/-- A store of the register at its width (41 R150). -/
def regStore (r : Reg) (am : Variant) (s : State) : Except Fault State :=
  if s.narrow r then storeb am (lo (s.reg r)) s else storew am (s.reg r) s

/-- The read-modify-write primitive: one address, reads before writes, low byte first; the width is `m8`
(43 R200). -/
def readModifyWrite (f : Alu) (am : Variant) (s : State) : Except Fault State :=
  readThen (address am s) fun t s =>
  if s.m8 then
    readThen (busLoad t.1 t.2 s) fun v s =>
    let o := f 8 s.cpu.p (lo s.cpu.a) v
    writeThen (busStore t.1 t.2 o.1 s) fun s => .ok (s.setP o.2)
  else
    checkWord t.1 t.2 <|
    readThen (busLoadWord t.1 t.2 s) fun v s =>
    let o := f 16 s.cpu.p s.cpu.a v
    writeThen (busStoreWord t.1 t.2 o.1 s) fun s => .ok (s.setP o.2)

/-- A value written to a register at the register's width, N and Z from it (44 R220). -/
def transfer (r : Reg) (v : Word) (s : State) : State :=
  if s.narrow r then put8 r (loadAlu 8 s.cpu.p (lo v) (lo v)) s else put16 r (loadAlu 16 s.cpu.p v v) s

end Sys2Proof.Machine
end

