-- ==== Sys2Proof/Machine/Arith.lean ====
section
/-! DEFINITION. Arithmetic, logic, compare and bit test: ADC SBC AND ORA EOR CMP CPX CPY BIT TSB TRB
(42_arithmetic_logic_compare R170 to R183). One meaning per mnemonic, then one definition per row. -/

namespace Sys2Proof.Machine

/-- The trap of ADC and SBC with P.d = 1; PC stands past the instruction's bytes (R171; log 12). -/
def decimalTrap (op : Byte) (am : Variant) (s : State) : Fault :=
  .decimalArithmetic op s.cpu.pbr (s.cpu.pc - BitVec.ofNat 16 (am.bytes.length + 1))

/-- ADC: the decimal check comes before any operand access (R171, R172). -/
def adc (op : Byte) (am : Variant) (s : State) : Except Fault State :=
  if getFlag s.cpu.p .d then .error (decimalTrap op am s) else regOperand adcAlu .a am s

/-- SBC (R171, R173). -/
def sbc (op : Byte) (am : Variant) (s : State) : Except Fault State :=
  if getFlag s.cpu.p .d then .error (decimalTrap op am s) else regOperand sbcAlu .a am s

/-- AND (R174). -/
def and_ (am : Variant) (s : State) : Except Fault State := regOperand andAlu .a am s

/-- ORA (R175). -/
def ora (am : Variant) (s : State) : Except Fault State := regOperand oraAlu .a am s

/-- EOR (R176). -/
def eor (am : Variant) (s : State) : Except Fault State := regOperand eorAlu .a am s

/-- CMP (R177). -/
def cmp (am : Variant) (s : State) : Except Fault State := regOperand cmpAlu .a am s

/-- CPX (R178). -/
def cpx (am : Variant) (s : State) : Except Fault State := regOperand cmpAlu .x am s

/-- CPY (R179). -/
def cpy (am : Variant) (s : State) : Except Fault State := regOperand cmpAlu .y am s

/-- BIT in its memory forms (R180). -/
def bit (am : Variant) (s : State) : Except Fault State := regOperand bitAlu .a am s

/-- BIT in its immediate form (R180). -/
def bitImm (am : Variant) (s : State) : Except Fault State := regOperand bitImmAlu .a am s

/-- TSB (R181). -/
def tsb (am : Variant) (s : State) : Except Fault State := readModifyWrite tsbAlu am s

/-- TRB (R182). -/
def trb (am : Variant) (s : State) : Except Fault State := readModifyWrite trbAlu am s

/-- ADC IMMM, opcode 0x69 (R172). -/
def execAdcImm (v : Imm) (s : State) : Host.Outcome State Fault Refusal :=
  finish (adc 0x69 v.variant s)

/-- ADC DP, opcode 0x65 (R172). -/
def execAdcDp (d : Byte) (s : State) : Host.Outcome State Fault Refusal :=
  finish (adc 0x65 (.direct d) s)

/-- ADC DPX, opcode 0x75 (R172). -/
def execAdcDpx (d : Byte) (s : State) : Host.Outcome State Fault Refusal :=
  finish (adc 0x75 (.directX d) s)

/-- ADC ABS, opcode 0x6D (R172). -/
def execAdcAbs (a : Word) (s : State) : Host.Outcome State Fault Refusal :=
  finish (adc 0x6D (.abs a) s)

/-- ADC ABSX, opcode 0x7D (R172). -/
def execAdcAbsx (a : Word) (s : State) : Host.Outcome State Fault Refusal :=
  finish (adc 0x7D (.absX a) s)

/-- ADC LONG, opcode 0x6F (R172). -/
def execAdcLong (b : Byte) (a : Word) (s : State) : Host.Outcome State Fault Refusal :=
  finish (adc 0x6F (.absLong b a) s)

/-- ADC LONGX, opcode 0x7F (R172). -/
def execAdcLongx (b : Byte) (a : Word) (s : State) : Host.Outcome State Fault Refusal :=
  finish (adc 0x7F (.absLongX b a) s)

/-- ADC ILY, opcode 0x77 (R172). -/
def execAdcIly (d : Byte) (s : State) : Host.Outcome State Fault Refusal :=
  finish (adc 0x77 (.indLongY d) s)

/-- SBC IMMM, opcode 0xE9 (R173). -/
def execSbcImm (v : Imm) (s : State) : Host.Outcome State Fault Refusal :=
  finish (sbc 0xE9 v.variant s)

/-- SBC DP, opcode 0xE5 (R173). -/
def execSbcDp (d : Byte) (s : State) : Host.Outcome State Fault Refusal :=
  finish (sbc 0xE5 (.direct d) s)

/-- SBC DPX, opcode 0xF5 (R173). -/
def execSbcDpx (d : Byte) (s : State) : Host.Outcome State Fault Refusal :=
  finish (sbc 0xF5 (.directX d) s)

/-- SBC ABS, opcode 0xED (R173). -/
def execSbcAbs (a : Word) (s : State) : Host.Outcome State Fault Refusal :=
  finish (sbc 0xED (.abs a) s)

/-- SBC ABSX, opcode 0xFD (R173). -/
def execSbcAbsx (a : Word) (s : State) : Host.Outcome State Fault Refusal :=
  finish (sbc 0xFD (.absX a) s)

/-- SBC LONG, opcode 0xEF (R173). -/
def execSbcLong (b : Byte) (a : Word) (s : State) : Host.Outcome State Fault Refusal :=
  finish (sbc 0xEF (.absLong b a) s)

/-- SBC LONGX, opcode 0xFF (R173). -/
def execSbcLongx (b : Byte) (a : Word) (s : State) : Host.Outcome State Fault Refusal :=
  finish (sbc 0xFF (.absLongX b a) s)

/-- SBC ILY, opcode 0xF7 (R173). -/
def execSbcIly (d : Byte) (s : State) : Host.Outcome State Fault Refusal :=
  finish (sbc 0xF7 (.indLongY d) s)

/-- AND IMMM, opcode 0x29 (R174). -/
def execAndImm (v : Imm) (s : State) : Host.Outcome State Fault Refusal :=
  finish (and_ v.variant s)

/-- AND DP, opcode 0x25 (R174). -/
def execAndDp (d : Byte) (s : State) : Host.Outcome State Fault Refusal :=
  finish (and_ (.direct d) s)

/-- AND DPX, opcode 0x35 (R174). -/
def execAndDpx (d : Byte) (s : State) : Host.Outcome State Fault Refusal :=
  finish (and_ (.directX d) s)

/-- AND ABS, opcode 0x2D (R174). -/
def execAndAbs (a : Word) (s : State) : Host.Outcome State Fault Refusal :=
  finish (and_ (.abs a) s)

/-- AND ABSX, opcode 0x3D (R174). -/
def execAndAbsx (a : Word) (s : State) : Host.Outcome State Fault Refusal :=
  finish (and_ (.absX a) s)

/-- AND LONG, opcode 0x2F (R174). -/
def execAndLong (b : Byte) (a : Word) (s : State) : Host.Outcome State Fault Refusal :=
  finish (and_ (.absLong b a) s)

/-- AND LONGX, opcode 0x3F (R174). -/
def execAndLongx (b : Byte) (a : Word) (s : State) : Host.Outcome State Fault Refusal :=
  finish (and_ (.absLongX b a) s)

/-- AND ILY, opcode 0x37 (R174). -/
def execAndIly (d : Byte) (s : State) : Host.Outcome State Fault Refusal :=
  finish (and_ (.indLongY d) s)

/-- ORA IMMM, opcode 0x09 (R175). -/
def execOraImm (v : Imm) (s : State) : Host.Outcome State Fault Refusal :=
  finish (ora v.variant s)

/-- ORA DP, opcode 0x05 (R175). -/
def execOraDp (d : Byte) (s : State) : Host.Outcome State Fault Refusal :=
  finish (ora (.direct d) s)

/-- ORA DPX, opcode 0x15 (R175). -/
def execOraDpx (d : Byte) (s : State) : Host.Outcome State Fault Refusal :=
  finish (ora (.directX d) s)

/-- ORA ABS, opcode 0x0D (R175). -/
def execOraAbs (a : Word) (s : State) : Host.Outcome State Fault Refusal :=
  finish (ora (.abs a) s)

/-- ORA ABSX, opcode 0x1D (R175). -/
def execOraAbsx (a : Word) (s : State) : Host.Outcome State Fault Refusal :=
  finish (ora (.absX a) s)

/-- ORA LONG, opcode 0x0F (R175). -/
def execOraLong (b : Byte) (a : Word) (s : State) : Host.Outcome State Fault Refusal :=
  finish (ora (.absLong b a) s)

/-- ORA LONGX, opcode 0x1F (R175). -/
def execOraLongx (b : Byte) (a : Word) (s : State) : Host.Outcome State Fault Refusal :=
  finish (ora (.absLongX b a) s)

/-- ORA ILY, opcode 0x17 (R175). -/
def execOraIly (d : Byte) (s : State) : Host.Outcome State Fault Refusal :=
  finish (ora (.indLongY d) s)

/-- EOR IMMM, opcode 0x49 (R176). -/
def execEorImm (v : Imm) (s : State) : Host.Outcome State Fault Refusal :=
  finish (eor v.variant s)

/-- EOR DP, opcode 0x45 (R176). -/
def execEorDp (d : Byte) (s : State) : Host.Outcome State Fault Refusal :=
  finish (eor (.direct d) s)

/-- EOR DPX, opcode 0x55 (R176). -/
def execEorDpx (d : Byte) (s : State) : Host.Outcome State Fault Refusal :=
  finish (eor (.directX d) s)

/-- EOR ABS, opcode 0x4D (R176). -/
def execEorAbs (a : Word) (s : State) : Host.Outcome State Fault Refusal :=
  finish (eor (.abs a) s)

/-- EOR ABSX, opcode 0x5D (R176). -/
def execEorAbsx (a : Word) (s : State) : Host.Outcome State Fault Refusal :=
  finish (eor (.absX a) s)

/-- EOR LONG, opcode 0x4F (R176). -/
def execEorLong (b : Byte) (a : Word) (s : State) : Host.Outcome State Fault Refusal :=
  finish (eor (.absLong b a) s)

/-- EOR LONGX, opcode 0x5F (R176). -/
def execEorLongx (b : Byte) (a : Word) (s : State) : Host.Outcome State Fault Refusal :=
  finish (eor (.absLongX b a) s)

/-- EOR ILY, opcode 0x57 (R176). -/
def execEorIly (d : Byte) (s : State) : Host.Outcome State Fault Refusal :=
  finish (eor (.indLongY d) s)

/-- CMP IMMM, opcode 0xC9 (R177). -/
def execCmpImm (v : Imm) (s : State) : Host.Outcome State Fault Refusal :=
  finish (cmp v.variant s)

/-- CMP DP, opcode 0xC5 (R177). -/
def execCmpDp (d : Byte) (s : State) : Host.Outcome State Fault Refusal :=
  finish (cmp (.direct d) s)

/-- CMP DPX, opcode 0xD5 (R177). -/
def execCmpDpx (d : Byte) (s : State) : Host.Outcome State Fault Refusal :=
  finish (cmp (.directX d) s)

/-- CMP ABS, opcode 0xCD (R177). -/
def execCmpAbs (a : Word) (s : State) : Host.Outcome State Fault Refusal :=
  finish (cmp (.abs a) s)

/-- CMP ABSX, opcode 0xDD (R177). -/
def execCmpAbsx (a : Word) (s : State) : Host.Outcome State Fault Refusal :=
  finish (cmp (.absX a) s)

/-- CMP LONG, opcode 0xCF (R177). -/
def execCmpLong (b : Byte) (a : Word) (s : State) : Host.Outcome State Fault Refusal :=
  finish (cmp (.absLong b a) s)

/-- CMP LONGX, opcode 0xDF (R177). -/
def execCmpLongx (b : Byte) (a : Word) (s : State) : Host.Outcome State Fault Refusal :=
  finish (cmp (.absLongX b a) s)

/-- CMP ILY, opcode 0xD7 (R177). -/
def execCmpIly (d : Byte) (s : State) : Host.Outcome State Fault Refusal :=
  finish (cmp (.indLongY d) s)

/-- CPX IMMX, opcode 0xE0 (R178). -/
def execCpxImm (v : Imm) (s : State) : Host.Outcome State Fault Refusal :=
  finish (cpx v.variant s)

/-- CPX DP, opcode 0xE4 (R178). -/
def execCpxDp (d : Byte) (s : State) : Host.Outcome State Fault Refusal :=
  finish (cpx (.direct d) s)

/-- CPX ABS, opcode 0xEC (R178). -/
def execCpxAbs (a : Word) (s : State) : Host.Outcome State Fault Refusal :=
  finish (cpx (.abs a) s)

/-- CPY IMMX, opcode 0xC0 (R179). -/
def execCpyImm (v : Imm) (s : State) : Host.Outcome State Fault Refusal :=
  finish (cpy v.variant s)

/-- CPY DP, opcode 0xC4 (R179). -/
def execCpyDp (d : Byte) (s : State) : Host.Outcome State Fault Refusal :=
  finish (cpy (.direct d) s)

/-- CPY ABS, opcode 0xCC (R179). -/
def execCpyAbs (a : Word) (s : State) : Host.Outcome State Fault Refusal :=
  finish (cpy (.abs a) s)

/-- BIT IMMM, opcode 0x89 (R180). -/
def execBitImm (v : Imm) (s : State) : Host.Outcome State Fault Refusal :=
  finish (bitImm v.variant s)

/-- BIT DP, opcode 0x24 (R180). -/
def execBitDp (d : Byte) (s : State) : Host.Outcome State Fault Refusal :=
  finish (bit (.direct d) s)

/-- BIT DPX, opcode 0x34 (R180). -/
def execBitDpx (d : Byte) (s : State) : Host.Outcome State Fault Refusal :=
  finish (bit (.directX d) s)

/-- BIT ABS, opcode 0x2C (R180). -/
def execBitAbs (a : Word) (s : State) : Host.Outcome State Fault Refusal :=
  finish (bit (.abs a) s)

/-- BIT ABSX, opcode 0x3C (R180). -/
def execBitAbsx (a : Word) (s : State) : Host.Outcome State Fault Refusal :=
  finish (bit (.absX a) s)

/-- TSB DP, opcode 0x04 (R181). -/
def execTsbDp (d : Byte) (s : State) : Host.Outcome State Fault Refusal :=
  finish (tsb (.direct d) s)

/-- TSB ABS, opcode 0x0C (R181). -/
def execTsbAbs (a : Word) (s : State) : Host.Outcome State Fault Refusal :=
  finish (tsb (.abs a) s)

/-- TRB DP, opcode 0x14 (R182). -/
def execTrbDp (d : Byte) (s : State) : Host.Outcome State Fault Refusal :=
  finish (trb (.direct d) s)

/-- TRB ABS, opcode 0x1C (R182). -/
def execTrbAbs (a : Word) (s : State) : Host.Outcome State Fault Refusal :=
  finish (trb (.abs a) s)

end Sys2Proof.Machine
end

