-- ==== Sys2Proof/Machine/Control.lean ====
section
/-! DEFINITION. Branches, jump, call and return: BPL BMI BVC BVS BCC BCS BNE BEQ BRA JML JSL RTL (46_control_flow
R270 to R284). -/

namespace Sys2Proof.Machine

/-- The common form of a branch: the target is computed either way (R271). -/
def branch (cond : Bool) (r : Byte) (s : State) : Except Fault State :=
  readThen (address (.rel r) s) fun t s => .ok (if cond then s.jump t.1 t.2 else s)

/-- BPL (R272). -/
def bpl (r : Byte) (s : State) : Except Fault State := branch (!getFlag s.cpu.p .n) r s

/-- BMI (R273). -/
def bmi (r : Byte) (s : State) : Except Fault State := branch (getFlag s.cpu.p .n) r s

/-- BVC (R274). -/
def bvc (r : Byte) (s : State) : Except Fault State := branch (!getFlag s.cpu.p .v) r s

/-- BVS (R275). -/
def bvs (r : Byte) (s : State) : Except Fault State := branch (getFlag s.cpu.p .v) r s

/-- BCC (R276). -/
def bcc (r : Byte) (s : State) : Except Fault State := branch (!getFlag s.cpu.p .c) r s

/-- BCS (R277). -/
def bcs (r : Byte) (s : State) : Except Fault State := branch (getFlag s.cpu.p .c) r s

/-- BNE (R278). -/
def bne (r : Byte) (s : State) : Except Fault State := branch (!getFlag s.cpu.p .z) r s

/-- BEQ (R279). -/
def beq (r : Byte) (s : State) : Except Fault State := branch (getFlag s.cpu.p .z) r s

/-- BRA (R280). -/
def bra (r : Byte) (s : State) : Except Fault State := branch true r s

/-- JML (R281). -/
def jml (b : Byte) (a : Word) (s : State) : Except Fault State :=
  readThen (address (.absLong b a) s) fun t s => .ok (s.jump t.1 t.2)

/-- The three pushes of a call, by `CALL_STACK_ORDER` (R282). -/
def pushReturn (ra : Word) (s : State) : Except Fault State :=
  match s.cfg.callStackOrder with
  | .pbrOnTop => writeThen (pushw ra s) fun s => pushb s.cpu.pbr s
  | .pbrDeepest => writeThen (pushb s.cpu.pbr s) (pushw ra)

/-- JSL: the return address is the offset of the call's last byte (R282). -/
def jsl (b : Byte) (a : Word) (s : State) : Except Fault State :=
  readThen (address (.absLong b a) s) fun t s =>
  writeThen (pushReturn (s.cpu.pc - 1) s) fun s => .ok (s.jump t.1 t.2)

/-- The three pops of a return, by `CALL_STACK_ORDER`: bank and offset (R283). -/
def popReturn (s : State) : Except Fault ((Byte × Word) × State) :=
  match s.cfg.callStackOrder with
  | .pbrOnTop =>
    readThen (popb s) fun b s => readThen (popw s) fun ra s => .ok ((b, ra), s)
  | .pbrDeepest =>
    readThen (popw s) fun ra s => readThen (popb s) fun b s => .ok ((b, ra), s)

/-- RTL (R283). -/
def rtl (s : State) : Except Fault State :=
  readThen (popReturn s) fun t s => .ok (s.jump t.1 (t.2 + 1))

/-- BPL REL, opcode 0x10 (R272). -/
def execBpl (r : Byte) (s : State) : Host.Outcome State Fault Refusal :=
  finish (bpl r s)

/-- BMI REL, opcode 0x30 (R273). -/
def execBmi (r : Byte) (s : State) : Host.Outcome State Fault Refusal :=
  finish (bmi r s)

/-- BVC REL, opcode 0x50 (R274). -/
def execBvc (r : Byte) (s : State) : Host.Outcome State Fault Refusal :=
  finish (bvc r s)

/-- BVS REL, opcode 0x70 (R275). -/
def execBvs (r : Byte) (s : State) : Host.Outcome State Fault Refusal :=
  finish (bvs r s)

/-- BCC REL, opcode 0x90 (R276). -/
def execBcc (r : Byte) (s : State) : Host.Outcome State Fault Refusal :=
  finish (bcc r s)

/-- BCS REL, opcode 0xB0 (R277). -/
def execBcs (r : Byte) (s : State) : Host.Outcome State Fault Refusal :=
  finish (bcs r s)

/-- BNE REL, opcode 0xD0 (R278). -/
def execBne (r : Byte) (s : State) : Host.Outcome State Fault Refusal :=
  finish (bne r s)

/-- BEQ REL, opcode 0xF0 (R279). -/
def execBeq (r : Byte) (s : State) : Host.Outcome State Fault Refusal :=
  finish (beq r s)

/-- BRA REL, opcode 0x80 (R280). -/
def execBra (r : Byte) (s : State) : Host.Outcome State Fault Refusal :=
  finish (bra r s)

/-- JML LONG, opcode 0x5C (R281). -/
def execJml (b : Byte) (a : Word) (s : State) : Host.Outcome State Fault Refusal :=
  finish (jml b a s)

/-- JSL LONG, opcode 0x22 (R282). -/
def execJsl (b : Byte) (a : Word) (s : State) : Host.Outcome State Fault Refusal :=
  finish (jsl b a s)

/-- RTL IMP, opcode 0x6B (R283). -/
def execRtl (s : State) : Host.Outcome State Fault Refusal :=
  finish (rtl s)

end Sys2Proof.Machine
end

