-- ==== Sys2Proof/Machine/LoadStore.lean ====
section
/-! DEFINITION. Loads and stores: LDA LDX LDY STA STX STY STZ (41_load_store R150 to R157). One meaning per
mnemonic over the variant, then one definition per row of the opcode table. -/

namespace Sys2Proof.Machine

/-- LDA (R151). -/
def lda (am : Variant) (s : State) : Except Fault State := regOperand loadAlu .a am s

/-- LDX (R152). -/
def ldx (am : Variant) (s : State) : Except Fault State := regOperand loadAlu .x am s

/-- LDY (R153). -/
def ldy (am : Variant) (s : State) : Except Fault State := regOperand loadAlu .y am s

/-- STA (R154). -/
def sta (am : Variant) (s : State) : Except Fault State := regStore .a am s

/-- STX (R155). -/
def stx (am : Variant) (s : State) : Except Fault State := regStore .x am s

/-- STY (R156). -/
def sty (am : Variant) (s : State) : Except Fault State := regStore .y am s

/-- STZ: the width follows `m8` (R157). -/
def stz (am : Variant) (s : State) : Except Fault State :=
  if s.m8 then storeb am 0x00 s else storew am 0x0000 s

/-- LDA IMMM, opcode 0xA9 (R151). -/
def execLdaImm (v : Imm) (s : State) : Host.Outcome State Fault Refusal :=
  finish (lda v.variant s)

/-- LDA DP, opcode 0xA5 (R151). -/
def execLdaDp (d : Byte) (s : State) : Host.Outcome State Fault Refusal :=
  finish (lda (.direct d) s)

/-- LDA DPX, opcode 0xB5 (R151). -/
def execLdaDpx (d : Byte) (s : State) : Host.Outcome State Fault Refusal :=
  finish (lda (.directX d) s)

/-- LDA ABS, opcode 0xAD (R151). -/
def execLdaAbs (a : Word) (s : State) : Host.Outcome State Fault Refusal :=
  finish (lda (.abs a) s)

/-- LDA ABSX, opcode 0xBD (R151). -/
def execLdaAbsx (a : Word) (s : State) : Host.Outcome State Fault Refusal :=
  finish (lda (.absX a) s)

/-- LDA LONG, opcode 0xAF (R151). -/
def execLdaLong (b : Byte) (a : Word) (s : State) : Host.Outcome State Fault Refusal :=
  finish (lda (.absLong b a) s)

/-- LDA LONGX, opcode 0xBF (R151). -/
def execLdaLongx (b : Byte) (a : Word) (s : State) : Host.Outcome State Fault Refusal :=
  finish (lda (.absLongX b a) s)

/-- LDA ILY, opcode 0xB7 (R151). -/
def execLdaIly (d : Byte) (s : State) : Host.Outcome State Fault Refusal :=
  finish (lda (.indLongY d) s)

/-- LDX IMMX, opcode 0xA2 (R152). -/
def execLdxImm (v : Imm) (s : State) : Host.Outcome State Fault Refusal :=
  finish (ldx v.variant s)

/-- LDX DP, opcode 0xA6 (R152). -/
def execLdxDp (d : Byte) (s : State) : Host.Outcome State Fault Refusal :=
  finish (ldx (.direct d) s)

/-- LDX ABS, opcode 0xAE (R152). -/
def execLdxAbs (a : Word) (s : State) : Host.Outcome State Fault Refusal :=
  finish (ldx (.abs a) s)

/-- LDY IMMX, opcode 0xA0 (R153). -/
def execLdyImm (v : Imm) (s : State) : Host.Outcome State Fault Refusal :=
  finish (ldy v.variant s)

/-- LDY DP, opcode 0xA4 (R153). -/
def execLdyDp (d : Byte) (s : State) : Host.Outcome State Fault Refusal :=
  finish (ldy (.direct d) s)

/-- LDY DPX, opcode 0xB4 (R153). -/
def execLdyDpx (d : Byte) (s : State) : Host.Outcome State Fault Refusal :=
  finish (ldy (.directX d) s)

/-- LDY ABS, opcode 0xAC (R153). -/
def execLdyAbs (a : Word) (s : State) : Host.Outcome State Fault Refusal :=
  finish (ldy (.abs a) s)

/-- LDY ABSX, opcode 0xBC (R153). -/
def execLdyAbsx (a : Word) (s : State) : Host.Outcome State Fault Refusal :=
  finish (ldy (.absX a) s)

/-- STA DP, opcode 0x85 (R154). -/
def execStaDp (d : Byte) (s : State) : Host.Outcome State Fault Refusal :=
  finish (sta (.direct d) s)

/-- STA DPX, opcode 0x95 (R154). -/
def execStaDpx (d : Byte) (s : State) : Host.Outcome State Fault Refusal :=
  finish (sta (.directX d) s)

/-- STA ABS, opcode 0x8D (R154). -/
def execStaAbs (a : Word) (s : State) : Host.Outcome State Fault Refusal :=
  finish (sta (.abs a) s)

/-- STA ABSX, opcode 0x9D (R154). -/
def execStaAbsx (a : Word) (s : State) : Host.Outcome State Fault Refusal :=
  finish (sta (.absX a) s)

/-- STA LONG, opcode 0x8F (R154). -/
def execStaLong (b : Byte) (a : Word) (s : State) : Host.Outcome State Fault Refusal :=
  finish (sta (.absLong b a) s)

/-- STA LONGX, opcode 0x9F (R154). -/
def execStaLongx (b : Byte) (a : Word) (s : State) : Host.Outcome State Fault Refusal :=
  finish (sta (.absLongX b a) s)

/-- STA ILY, opcode 0x97 (R154). -/
def execStaIly (d : Byte) (s : State) : Host.Outcome State Fault Refusal :=
  finish (sta (.indLongY d) s)

/-- STX DP, opcode 0x86 (R155). -/
def execStxDp (d : Byte) (s : State) : Host.Outcome State Fault Refusal :=
  finish (stx (.direct d) s)

/-- STX ABS, opcode 0x8E (R155). -/
def execStxAbs (a : Word) (s : State) : Host.Outcome State Fault Refusal :=
  finish (stx (.abs a) s)

/-- STY DP, opcode 0x84 (R156). -/
def execStyDp (d : Byte) (s : State) : Host.Outcome State Fault Refusal :=
  finish (sty (.direct d) s)

/-- STY DPX, opcode 0x94 (R156). -/
def execStyDpx (d : Byte) (s : State) : Host.Outcome State Fault Refusal :=
  finish (sty (.directX d) s)

/-- STY ABS, opcode 0x8C (R156). -/
def execStyAbs (a : Word) (s : State) : Host.Outcome State Fault Refusal :=
  finish (sty (.abs a) s)

/-- STZ DP, opcode 0x64 (R157). -/
def execStzDp (d : Byte) (s : State) : Host.Outcome State Fault Refusal :=
  finish (stz (.direct d) s)

/-- STZ DPX, opcode 0x74 (R157). -/
def execStzDpx (d : Byte) (s : State) : Host.Outcome State Fault Refusal :=
  finish (stz (.directX d) s)

/-- STZ ABS, opcode 0x9C (R157). -/
def execStzAbs (a : Word) (s : State) : Host.Outcome State Fault Refusal :=
  finish (stz (.abs a) s)

/-- STZ ABSX, opcode 0x9E (R157). -/
def execStzAbsx (a : Word) (s : State) : Host.Outcome State Fault Refusal :=
  finish (stz (.absX a) s)

end Sys2Proof.Machine
end

