-- ==== Sys2Proof/Machine/Shift.lean ====
section
/-! DEFINITION. Shifts, rotates, increments and decrements: ASL LSR ROL ROR INC DEC INX INY DEX DEY
(43_shift_incdec R200 to R210). One meaning per mnemonic for memory and one for the accumulator, then one
definition per row. -/

namespace Sys2Proof.Machine

/-- ASL on memory (R201). -/
def asl (am : Variant) (s : State) : Except Fault State := readModifyWrite aslAlu am s

/-- ASL on the accumulator (R201). -/
def aslA (s : State) : Except Fault State := .ok (regAlone aslAlu .a s)

/-- LSR on memory (R202). -/
def lsr (am : Variant) (s : State) : Except Fault State := readModifyWrite lsrAlu am s

/-- LSR on the accumulator (R202). -/
def lsrA (s : State) : Except Fault State := .ok (regAlone lsrAlu .a s)

/-- ROL on memory (R203). -/
def rol (am : Variant) (s : State) : Except Fault State := readModifyWrite rolAlu am s

/-- ROL on the accumulator (R203). -/
def rolA (s : State) : Except Fault State := .ok (regAlone rolAlu .a s)

/-- ROR on memory (R204). -/
def ror (am : Variant) (s : State) : Except Fault State := readModifyWrite rorAlu am s

/-- ROR on the accumulator (R204). -/
def rorA (s : State) : Except Fault State := .ok (regAlone rorAlu .a s)

/-- INC on memory (R205). -/
def inc (am : Variant) (s : State) : Except Fault State := readModifyWrite incAlu am s

/-- INC on the accumulator (R205). -/
def incA (s : State) : Except Fault State := .ok (regAlone incAlu .a s)

/-- DEC on memory (R206). -/
def dec (am : Variant) (s : State) : Except Fault State := readModifyWrite decAlu am s

/-- DEC on the accumulator (R206). -/
def decA (s : State) : Except Fault State := .ok (regAlone decAlu .a s)

/-- INX (R207). -/
def inx (s : State) : Except Fault State := .ok (regAlone incAlu .x s)

/-- INY (R208). -/
def iny (s : State) : Except Fault State := .ok (regAlone incAlu .y s)

/-- DEX (R209). -/
def dex (s : State) : Except Fault State := .ok (regAlone decAlu .x s)

/-- DEY (R210). -/
def dey (s : State) : Except Fault State := .ok (regAlone decAlu .y s)

/-- ASL ACC, opcode 0x0A (R201). -/
def execAslAcc (s : State) : Host.Outcome State Fault Refusal :=
  finish (aslA s)

/-- ASL DP, opcode 0x06 (R201). -/
def execAslDp (d : Byte) (s : State) : Host.Outcome State Fault Refusal :=
  finish (asl (.direct d) s)

/-- ASL DPX, opcode 0x16 (R201). -/
def execAslDpx (d : Byte) (s : State) : Host.Outcome State Fault Refusal :=
  finish (asl (.directX d) s)

/-- ASL ABS, opcode 0x0E (R201). -/
def execAslAbs (a : Word) (s : State) : Host.Outcome State Fault Refusal :=
  finish (asl (.abs a) s)

/-- ASL ABSX, opcode 0x1E (R201). -/
def execAslAbsx (a : Word) (s : State) : Host.Outcome State Fault Refusal :=
  finish (asl (.absX a) s)

/-- LSR ACC, opcode 0x4A (R202). -/
def execLsrAcc (s : State) : Host.Outcome State Fault Refusal :=
  finish (lsrA s)

/-- LSR DP, opcode 0x46 (R202). -/
def execLsrDp (d : Byte) (s : State) : Host.Outcome State Fault Refusal :=
  finish (lsr (.direct d) s)

/-- LSR DPX, opcode 0x56 (R202). -/
def execLsrDpx (d : Byte) (s : State) : Host.Outcome State Fault Refusal :=
  finish (lsr (.directX d) s)

/-- LSR ABS, opcode 0x4E (R202). -/
def execLsrAbs (a : Word) (s : State) : Host.Outcome State Fault Refusal :=
  finish (lsr (.abs a) s)

/-- LSR ABSX, opcode 0x5E (R202). -/
def execLsrAbsx (a : Word) (s : State) : Host.Outcome State Fault Refusal :=
  finish (lsr (.absX a) s)

/-- ROL ACC, opcode 0x2A (R203). -/
def execRolAcc (s : State) : Host.Outcome State Fault Refusal :=
  finish (rolA s)

/-- ROL DP, opcode 0x26 (R203). -/
def execRolDp (d : Byte) (s : State) : Host.Outcome State Fault Refusal :=
  finish (rol (.direct d) s)

/-- ROL DPX, opcode 0x36 (R203). -/
def execRolDpx (d : Byte) (s : State) : Host.Outcome State Fault Refusal :=
  finish (rol (.directX d) s)

/-- ROL ABS, opcode 0x2E (R203). -/
def execRolAbs (a : Word) (s : State) : Host.Outcome State Fault Refusal :=
  finish (rol (.abs a) s)

/-- ROL ABSX, opcode 0x3E (R203). -/
def execRolAbsx (a : Word) (s : State) : Host.Outcome State Fault Refusal :=
  finish (rol (.absX a) s)

/-- ROR ACC, opcode 0x6A (R204). -/
def execRorAcc (s : State) : Host.Outcome State Fault Refusal :=
  finish (rorA s)

/-- ROR DP, opcode 0x66 (R204). -/
def execRorDp (d : Byte) (s : State) : Host.Outcome State Fault Refusal :=
  finish (ror (.direct d) s)

/-- ROR DPX, opcode 0x76 (R204). -/
def execRorDpx (d : Byte) (s : State) : Host.Outcome State Fault Refusal :=
  finish (ror (.directX d) s)

/-- ROR ABS, opcode 0x6E (R204). -/
def execRorAbs (a : Word) (s : State) : Host.Outcome State Fault Refusal :=
  finish (ror (.abs a) s)

/-- ROR ABSX, opcode 0x7E (R204). -/
def execRorAbsx (a : Word) (s : State) : Host.Outcome State Fault Refusal :=
  finish (ror (.absX a) s)

/-- INC ACC, opcode 0x1A (R205). -/
def execIncAcc (s : State) : Host.Outcome State Fault Refusal :=
  finish (incA s)

/-- INC DP, opcode 0xE6 (R205). -/
def execIncDp (d : Byte) (s : State) : Host.Outcome State Fault Refusal :=
  finish (inc (.direct d) s)

/-- INC DPX, opcode 0xF6 (R205). -/
def execIncDpx (d : Byte) (s : State) : Host.Outcome State Fault Refusal :=
  finish (inc (.directX d) s)

/-- INC ABS, opcode 0xEE (R205). -/
def execIncAbs (a : Word) (s : State) : Host.Outcome State Fault Refusal :=
  finish (inc (.abs a) s)

/-- INC ABSX, opcode 0xFE (R205). -/
def execIncAbsx (a : Word) (s : State) : Host.Outcome State Fault Refusal :=
  finish (inc (.absX a) s)

/-- DEC ACC, opcode 0x3A (R206). -/
def execDecAcc (s : State) : Host.Outcome State Fault Refusal :=
  finish (decA s)

/-- DEC DP, opcode 0xC6 (R206). -/
def execDecDp (d : Byte) (s : State) : Host.Outcome State Fault Refusal :=
  finish (dec (.direct d) s)

/-- DEC DPX, opcode 0xD6 (R206). -/
def execDecDpx (d : Byte) (s : State) : Host.Outcome State Fault Refusal :=
  finish (dec (.directX d) s)

/-- DEC ABS, opcode 0xCE (R206). -/
def execDecAbs (a : Word) (s : State) : Host.Outcome State Fault Refusal :=
  finish (dec (.abs a) s)

/-- DEC ABSX, opcode 0xDE (R206). -/
def execDecAbsx (a : Word) (s : State) : Host.Outcome State Fault Refusal :=
  finish (dec (.absX a) s)

/-- INX IMP, opcode 0xE8 (R207). -/
def execInx (s : State) : Host.Outcome State Fault Refusal :=
  finish (inx s)

/-- INY IMP, opcode 0xC8 (R208). -/
def execIny (s : State) : Host.Outcome State Fault Refusal :=
  finish (iny s)

/-- DEX IMP, opcode 0xCA (R209). -/
def execDex (s : State) : Host.Outcome State Fault Refusal :=
  finish (dex s)

/-- DEY IMP, opcode 0x88 (R210). -/
def execDey (s : State) : Host.Outcome State Fault Refusal :=
  finish (dey s)

end Sys2Proof.Machine
end

