-- ==== Sys2Proof/Machine/Stack.lean ====
section
/-! DEFINITION. Push and pull: PHA PHX PHY PHP PHB PHK PHD PLA PLX PLY PLP PLB PLD (45_stack R245 to R257). -/

namespace Sys2Proof.Machine

/-- A push of a register at its width (R245 to R247). -/
def pushReg (r : Reg) (s : State) : Except Fault State :=
  if s.narrow r then pushb (lo (s.reg r)) s else pushw (s.reg r) s

/-- A pull of a register at its width, N and Z from the value (R252 to R254). -/
def pullReg (r : Reg) (s : State) : Except Fault State :=
  if s.narrow r then readThen (popb s) fun v s => .ok (put8 r (loadAlu 8 s.cpu.p v v) s)
  else readThen (popw s) fun v s => .ok (put16 r (loadAlu 16 s.cpu.p v v) s)

/-- PHA (R245). -/
def pha (s : State) : Except Fault State := pushReg .a s

/-- PHX (R246). -/
def phx (s : State) : Except Fault State := pushReg .x s

/-- PHY (R247). -/
def phy (s : State) : Except Fault State := pushReg .y s

/-- PHP: all eight bits as stored (R248). -/
def php (s : State) : Except Fault State := pushb s.cpu.p s

/-- PHB (R249). -/
def phb (s : State) : Except Fault State := pushb s.cpu.dbr s

/-- PHK (R250). -/
def phk (s : State) : Except Fault State := pushb s.cpu.pbr s

/-- PHD: always two bytes (R251). -/
def phd (s : State) : Except Fault State := pushw s.cpu.d s

/-- PLA (R252). -/
def pla (s : State) : Except Fault State := pullReg .a s

/-- PLX (R253). -/
def plx (s : State) : Except Fault State := pullReg .x s

/-- PLY (R254). -/
def ply (s : State) : Except Fault State := pullReg .y s

/-- PLP: all eight bits (R255). -/
def plp (s : State) : Except Fault State := readThen (popb s) fun v s => .ok (s.setP v)

/-- PLB (R256). -/
def plb (s : State) : Except Fault State := readThen (popb s) fun v s => .ok ((s.setDbr v).setNz v)

/-- PLD: always two bytes (R257). -/
def pld (s : State) : Except Fault State := readThen (popw s) fun v s => .ok ((s.setD v).setNz v)

/-- PHA IMP, opcode 0x48 (R245). -/
def execPha (s : State) : Host.Outcome State Fault Refusal :=
  finish (pha s)

/-- PHX IMP, opcode 0xDA (R246). -/
def execPhx (s : State) : Host.Outcome State Fault Refusal :=
  finish (phx s)

/-- PHY IMP, opcode 0x5A (R247). -/
def execPhy (s : State) : Host.Outcome State Fault Refusal :=
  finish (phy s)

/-- PHP IMP, opcode 0x08 (R248). -/
def execPhp (s : State) : Host.Outcome State Fault Refusal :=
  finish (php s)

/-- PHB IMP, opcode 0x8B (R249). -/
def execPhb (s : State) : Host.Outcome State Fault Refusal :=
  finish (phb s)

/-- PHK IMP, opcode 0x4B (R250). -/
def execPhk (s : State) : Host.Outcome State Fault Refusal :=
  finish (phk s)

/-- PHD IMP, opcode 0x0B (R251). -/
def execPhd (s : State) : Host.Outcome State Fault Refusal :=
  finish (phd s)

/-- PLA IMP, opcode 0x68 (R252). -/
def execPla (s : State) : Host.Outcome State Fault Refusal :=
  finish (pla s)

/-- PLX IMP, opcode 0xFA (R253). -/
def execPlx (s : State) : Host.Outcome State Fault Refusal :=
  finish (plx s)

/-- PLY IMP, opcode 0x7A (R254). -/
def execPly (s : State) : Host.Outcome State Fault Refusal :=
  finish (ply s)

/-- PLP IMP, opcode 0x28 (R255). -/
def execPlp (s : State) : Host.Outcome State Fault Refusal :=
  finish (plp s)

/-- PLB IMP, opcode 0xAB (R256). -/
def execPlb (s : State) : Host.Outcome State Fault Refusal :=
  finish (plb s)

/-- PLD IMP, opcode 0x2B (R257). -/
def execPld (s : State) : Host.Outcome State Fault Refusal :=
  finish (pld s)

end Sys2Proof.Machine
end

