-- ==== Sys2Proof/Machine/Status.lean ====
section
/-! DEFINITION. Status, mode and system instructions: CLC SEC CLI SEI CLD SED CLV REP SEP XCE NOP RTI
(47_status_mode R301 to R312). -/

namespace Sys2Proof.Machine

/-- CLC (R301). -/
def clc (s : State) : Except Fault State := .ok (s.setPFlag .c false)

/-- SEC (R302). -/
def sec (s : State) : Except Fault State := .ok (s.setPFlag .c true)

/-- CLI (R303). -/
def cli (s : State) : Except Fault State := .ok (s.setPFlag .i false)

/-- SEI (R304). -/
def sei (s : State) : Except Fault State := .ok (s.setPFlag .i true)

/-- CLD (R305). -/
def cld (s : State) : Except Fault State := .ok (s.setPFlag .d false)

/-- SED (R306). -/
def sed (s : State) : Except Fault State := .ok (s.setPFlag .d true)

/-- CLV (R307). -/
def clv (s : State) : Except Fault State := .ok (s.setPFlag .v false)

/-- REP: fatal in emulation mode whatever the mask (R308). -/
def rep (k : Byte) (s : State) : Except Fault State :=
  if s.cpu.e then .error (.privilegedFlagInEmulation 0xC2 k)
  else readThen (loadb (.imm8 k) s) fun k s => .ok (s.setP (s.cpu.p &&& ~~~k))

/-- SEP: fatal in emulation mode whatever the mask (R310). -/
def sep (k : Byte) (s : State) : Except Fault State :=
  if s.cpu.e then .error (.privilegedFlagInEmulation 0xE2 k)
  else readThen (loadb (.imm8 k) s) fun k s => .ok (s.setP (s.cpu.p ||| k))

/-- XCE: carry and E exchanged; entering emulation mode clamps S and nothing else (R309). -/
def xce (s : State) : Except Fault State :=
  let c := getFlag s.cpu.p .c
  let t := (s.setPFlag .c s.cpu.e).setE c
  .ok (if c then t.setS (stackPage (lo s.cpu.s)) else t)

/-- NOP: no effect (R311). -/
def nop (s : State) : Except Fault State := .ok s

/-- RTI (R312). -/
def rti (s : State) : Except Fault State := returnFromInterrupt s

/-- CLC IMP, opcode 0x18 (R301). -/
def execClc (s : State) : Host.Outcome State Fault Refusal :=
  finish (clc s)

/-- SEC IMP, opcode 0x38 (R302). -/
def execSec (s : State) : Host.Outcome State Fault Refusal :=
  finish (sec s)

/-- CLI IMP, opcode 0x58 (R303). -/
def execCli (s : State) : Host.Outcome State Fault Refusal :=
  finish (cli s)

/-- SEI IMP, opcode 0x78 (R304). -/
def execSei (s : State) : Host.Outcome State Fault Refusal :=
  finish (sei s)

/-- CLD IMP, opcode 0xD8 (R305). -/
def execCld (s : State) : Host.Outcome State Fault Refusal :=
  finish (cld s)

/-- SED IMP, opcode 0xF8 (R306). -/
def execSed (s : State) : Host.Outcome State Fault Refusal :=
  finish (sed s)

/-- CLV IMP, opcode 0xB8 (R307). -/
def execClv (s : State) : Host.Outcome State Fault Refusal :=
  finish (clv s)

/-- REP IMM8, opcode 0xC2 (R308). -/
def execRep (k : Byte) (s : State) : Host.Outcome State Fault Refusal :=
  finish (rep k s)

/-- SEP IMM8, opcode 0xE2 (R310). -/
def execSep (k : Byte) (s : State) : Host.Outcome State Fault Refusal :=
  finish (sep k s)

/-- XCE IMP, opcode 0xFB (R309). -/
def execXce (s : State) : Host.Outcome State Fault Refusal :=
  finish (xce s)

/-- NOP IMP, opcode 0xEA (R311). -/
def execNop (s : State) : Host.Outcome State Fault Refusal :=
  finish (nop s)

/-- RTI IMP, opcode 0x40 (R312). -/
def execRti (s : State) : Host.Outcome State Fault Refusal :=
  finish (rti s)

end Sys2Proof.Machine
end

