-- ==== Sys2Proof/Machine/Transfer.lean ====
section
/-! DEFINITION. Register transfers: TAX TAY TXA TYA TXY TYX TXS TSX TCS TSC TCD TDC XBA (44_transfer R220 to
R233). -/

namespace Sys2Proof.Machine

/-- TAX (R221). -/
def tax (s : State) : Except Fault State := .ok (transfer .x s.cpu.a s)

/-- TAY (R222). -/
def tay (s : State) : Except Fault State := .ok (transfer .y s.cpu.a s)

/-- TXA (R223). -/
def txa (s : State) : Except Fault State := .ok (transfer .a s.xi s)

/-- TYA (R224). -/
def tya (s : State) : Except Fault State := .ok (transfer .a s.yi s)

/-- TXY (R225). -/
def txy (s : State) : Except Fault State := .ok (transfer .y s.cpu.x s)

/-- TYX (R233). -/
def tyx (s : State) : Except Fault State := .ok (transfer .x s.cpu.y s)

/-- TXS: the page is forced in emulation mode; no flag (R226). -/
def txs (s : State) : Except Fault State :=
  .ok (s.setS (if s.cpu.e then stackPage (lo s.cpu.x) else s.xi))

/-- TSX (R227). -/
def tsx (s : State) : Except Fault State := .ok (transfer .x s.cpu.s s)

/-- TCS: the page is forced in emulation mode; no flag (R228). -/
def tcs (s : State) : Except Fault State :=
  .ok (s.setS (if s.cpu.e then stackPage (lo s.cpu.a) else s.cpu.a))

/-- TSC: always 16 bits (R229). -/
def tsc (s : State) : Except Fault State := .ok ((s.setReg .a s.cpu.s).setNz s.cpu.s)

/-- TCD: always 16 bits (R230). -/
def tcd (s : State) : Except Fault State := .ok ((s.setD s.cpu.a).setNz s.cpu.a)

/-- TDC: always 16 bits (R231). -/
def tdc (s : State) : Except Fault State := .ok ((s.setReg .a s.cpu.d).setNz s.cpu.d)

/-- XBA: the flags from the new low byte in every mode (R232). -/
def xba (s : State) : Except Fault State :=
  .ok ((s.setReg .a (word (lo s.cpu.a) (hi s.cpu.a))).setNz (hi s.cpu.a))

/-- TAX IMP, opcode 0xAA (R221). -/
def execTax (s : State) : Host.Outcome State Fault Refusal :=
  finish (tax s)

/-- TAY IMP, opcode 0xA8 (R222). -/
def execTay (s : State) : Host.Outcome State Fault Refusal :=
  finish (tay s)

/-- TXA IMP, opcode 0x8A (R223). -/
def execTxa (s : State) : Host.Outcome State Fault Refusal :=
  finish (txa s)

/-- TYA IMP, opcode 0x98 (R224). -/
def execTya (s : State) : Host.Outcome State Fault Refusal :=
  finish (tya s)

/-- TXY IMP, opcode 0x9B (R225). -/
def execTxy (s : State) : Host.Outcome State Fault Refusal :=
  finish (txy s)

/-- TYX IMP, opcode 0xBB (R233). -/
def execTyx (s : State) : Host.Outcome State Fault Refusal :=
  finish (tyx s)

/-- TXS IMP, opcode 0x9A (R226). -/
def execTxs (s : State) : Host.Outcome State Fault Refusal :=
  finish (txs s)

/-- TSX IMP, opcode 0xBA (R227). -/
def execTsx (s : State) : Host.Outcome State Fault Refusal :=
  finish (tsx s)

/-- TCS IMP, opcode 0x1B (R228). -/
def execTcs (s : State) : Host.Outcome State Fault Refusal :=
  finish (tcs s)

/-- TSC IMP, opcode 0x3B (R229). -/
def execTsc (s : State) : Host.Outcome State Fault Refusal :=
  finish (tsc s)

/-- TCD IMP, opcode 0x5B (R230). -/
def execTcd (s : State) : Host.Outcome State Fault Refusal :=
  finish (tcd s)

/-- TDC IMP, opcode 0x7B (R231). -/
def execTdc (s : State) : Host.Outcome State Fault Refusal :=
  finish (tdc s)

/-- XBA IMP, opcode 0xEB (R232). -/
def execXba (s : State) : Host.Outcome State Fault Refusal :=
  finish (xba s)

end Sys2Proof.Machine
end

