-- ==== Sys2Proof/Machine/Dispatch.lean ====
section
/-! DEFINITION. One arm per constructor of Instr, each one direct call of its meaning. -/

namespace Sys2Proof.Machine

def exec (i : Instr) (s : State) : Host.Outcome State Fault Refusal :=
  match i with
  -- LoadStore
  | .ldaImm v => Sys2Proof.Machine.execLdaImm v s
  | .ldaDp d => Sys2Proof.Machine.execLdaDp d s
  | .ldaDpx d => Sys2Proof.Machine.execLdaDpx d s
  | .ldaAbs a => Sys2Proof.Machine.execLdaAbs a s
  | .ldaAbsx a => Sys2Proof.Machine.execLdaAbsx a s
  | .ldaLong b a => Sys2Proof.Machine.execLdaLong b a s
  | .ldaLongx b a => Sys2Proof.Machine.execLdaLongx b a s
  | .ldaIly d => Sys2Proof.Machine.execLdaIly d s
  | .ldxImm v => Sys2Proof.Machine.execLdxImm v s
  | .ldxDp d => Sys2Proof.Machine.execLdxDp d s
  | .ldxAbs a => Sys2Proof.Machine.execLdxAbs a s
  | .ldyImm v => Sys2Proof.Machine.execLdyImm v s
  | .ldyDp d => Sys2Proof.Machine.execLdyDp d s
  | .ldyDpx d => Sys2Proof.Machine.execLdyDpx d s
  | .ldyAbs a => Sys2Proof.Machine.execLdyAbs a s
  | .ldyAbsx a => Sys2Proof.Machine.execLdyAbsx a s
  | .staDp d => Sys2Proof.Machine.execStaDp d s
  | .staDpx d => Sys2Proof.Machine.execStaDpx d s
  | .staAbs a => Sys2Proof.Machine.execStaAbs a s
  | .staAbsx a => Sys2Proof.Machine.execStaAbsx a s
  | .staLong b a => Sys2Proof.Machine.execStaLong b a s
  | .staLongx b a => Sys2Proof.Machine.execStaLongx b a s
  | .staIly d => Sys2Proof.Machine.execStaIly d s
  | .stxDp d => Sys2Proof.Machine.execStxDp d s
  | .stxAbs a => Sys2Proof.Machine.execStxAbs a s
  | .styDp d => Sys2Proof.Machine.execStyDp d s
  | .styDpx d => Sys2Proof.Machine.execStyDpx d s
  | .styAbs a => Sys2Proof.Machine.execStyAbs a s
  | .stzDp d => Sys2Proof.Machine.execStzDp d s
  | .stzDpx d => Sys2Proof.Machine.execStzDpx d s
  | .stzAbs a => Sys2Proof.Machine.execStzAbs a s
  | .stzAbsx a => Sys2Proof.Machine.execStzAbsx a s
  -- Arith
  | .adcImm v => Sys2Proof.Machine.execAdcImm v s
  | .adcDp d => Sys2Proof.Machine.execAdcDp d s
  | .adcDpx d => Sys2Proof.Machine.execAdcDpx d s
  | .adcAbs a => Sys2Proof.Machine.execAdcAbs a s
  | .adcAbsx a => Sys2Proof.Machine.execAdcAbsx a s
  | .adcLong b a => Sys2Proof.Machine.execAdcLong b a s
  | .adcLongx b a => Sys2Proof.Machine.execAdcLongx b a s
  | .adcIly d => Sys2Proof.Machine.execAdcIly d s
  | .sbcImm v => Sys2Proof.Machine.execSbcImm v s
  | .sbcDp d => Sys2Proof.Machine.execSbcDp d s
  | .sbcDpx d => Sys2Proof.Machine.execSbcDpx d s
  | .sbcAbs a => Sys2Proof.Machine.execSbcAbs a s
  | .sbcAbsx a => Sys2Proof.Machine.execSbcAbsx a s
  | .sbcLong b a => Sys2Proof.Machine.execSbcLong b a s
  | .sbcLongx b a => Sys2Proof.Machine.execSbcLongx b a s
  | .sbcIly d => Sys2Proof.Machine.execSbcIly d s
  | .andImm v => Sys2Proof.Machine.execAndImm v s
  | .andDp d => Sys2Proof.Machine.execAndDp d s
  | .andDpx d => Sys2Proof.Machine.execAndDpx d s
  | .andAbs a => Sys2Proof.Machine.execAndAbs a s
  | .andAbsx a => Sys2Proof.Machine.execAndAbsx a s
  | .andLong b a => Sys2Proof.Machine.execAndLong b a s
  | .andLongx b a => Sys2Proof.Machine.execAndLongx b a s
  | .andIly d => Sys2Proof.Machine.execAndIly d s
  | .oraImm v => Sys2Proof.Machine.execOraImm v s
  | .oraDp d => Sys2Proof.Machine.execOraDp d s
  | .oraDpx d => Sys2Proof.Machine.execOraDpx d s
  | .oraAbs a => Sys2Proof.Machine.execOraAbs a s
  | .oraAbsx a => Sys2Proof.Machine.execOraAbsx a s
  | .oraLong b a => Sys2Proof.Machine.execOraLong b a s
  | .oraLongx b a => Sys2Proof.Machine.execOraLongx b a s
  | .oraIly d => Sys2Proof.Machine.execOraIly d s
  | .eorImm v => Sys2Proof.Machine.execEorImm v s
  | .eorDp d => Sys2Proof.Machine.execEorDp d s
  | .eorDpx d => Sys2Proof.Machine.execEorDpx d s
  | .eorAbs a => Sys2Proof.Machine.execEorAbs a s
  | .eorAbsx a => Sys2Proof.Machine.execEorAbsx a s
  | .eorLong b a => Sys2Proof.Machine.execEorLong b a s
  | .eorLongx b a => Sys2Proof.Machine.execEorLongx b a s
  | .eorIly d => Sys2Proof.Machine.execEorIly d s
  | .cmpImm v => Sys2Proof.Machine.execCmpImm v s
  | .cmpDp d => Sys2Proof.Machine.execCmpDp d s
  | .cmpDpx d => Sys2Proof.Machine.execCmpDpx d s
  | .cmpAbs a => Sys2Proof.Machine.execCmpAbs a s
  | .cmpAbsx a => Sys2Proof.Machine.execCmpAbsx a s
  | .cmpLong b a => Sys2Proof.Machine.execCmpLong b a s
  | .cmpLongx b a => Sys2Proof.Machine.execCmpLongx b a s
  | .cmpIly d => Sys2Proof.Machine.execCmpIly d s
  | .cpxImm v => Sys2Proof.Machine.execCpxImm v s
  | .cpxDp d => Sys2Proof.Machine.execCpxDp d s
  | .cpxAbs a => Sys2Proof.Machine.execCpxAbs a s
  | .cpyImm v => Sys2Proof.Machine.execCpyImm v s
  | .cpyDp d => Sys2Proof.Machine.execCpyDp d s
  | .cpyAbs a => Sys2Proof.Machine.execCpyAbs a s
  | .bitImm v => Sys2Proof.Machine.execBitImm v s
  | .bitDp d => Sys2Proof.Machine.execBitDp d s
  | .bitDpx d => Sys2Proof.Machine.execBitDpx d s
  | .bitAbs a => Sys2Proof.Machine.execBitAbs a s
  | .bitAbsx a => Sys2Proof.Machine.execBitAbsx a s
  | .tsbDp d => Sys2Proof.Machine.execTsbDp d s
  | .tsbAbs a => Sys2Proof.Machine.execTsbAbs a s
  | .trbDp d => Sys2Proof.Machine.execTrbDp d s
  | .trbAbs a => Sys2Proof.Machine.execTrbAbs a s
  -- Shift
  | .aslAcc => Sys2Proof.Machine.execAslAcc s
  | .aslDp d => Sys2Proof.Machine.execAslDp d s
  | .aslDpx d => Sys2Proof.Machine.execAslDpx d s
  | .aslAbs a => Sys2Proof.Machine.execAslAbs a s
  | .aslAbsx a => Sys2Proof.Machine.execAslAbsx a s
  | .lsrAcc => Sys2Proof.Machine.execLsrAcc s
  | .lsrDp d => Sys2Proof.Machine.execLsrDp d s
  | .lsrDpx d => Sys2Proof.Machine.execLsrDpx d s
  | .lsrAbs a => Sys2Proof.Machine.execLsrAbs a s
  | .lsrAbsx a => Sys2Proof.Machine.execLsrAbsx a s
  | .rolAcc => Sys2Proof.Machine.execRolAcc s
  | .rolDp d => Sys2Proof.Machine.execRolDp d s
  | .rolDpx d => Sys2Proof.Machine.execRolDpx d s
  | .rolAbs a => Sys2Proof.Machine.execRolAbs a s
  | .rolAbsx a => Sys2Proof.Machine.execRolAbsx a s
  | .rorAcc => Sys2Proof.Machine.execRorAcc s
  | .rorDp d => Sys2Proof.Machine.execRorDp d s
  | .rorDpx d => Sys2Proof.Machine.execRorDpx d s
  | .rorAbs a => Sys2Proof.Machine.execRorAbs a s
  | .rorAbsx a => Sys2Proof.Machine.execRorAbsx a s
  | .incAcc => Sys2Proof.Machine.execIncAcc s
  | .incDp d => Sys2Proof.Machine.execIncDp d s
  | .incDpx d => Sys2Proof.Machine.execIncDpx d s
  | .incAbs a => Sys2Proof.Machine.execIncAbs a s
  | .incAbsx a => Sys2Proof.Machine.execIncAbsx a s
  | .decAcc => Sys2Proof.Machine.execDecAcc s
  | .decDp d => Sys2Proof.Machine.execDecDp d s
  | .decDpx d => Sys2Proof.Machine.execDecDpx d s
  | .decAbs a => Sys2Proof.Machine.execDecAbs a s
  | .decAbsx a => Sys2Proof.Machine.execDecAbsx a s
  | .inx => Sys2Proof.Machine.execInx s
  | .iny => Sys2Proof.Machine.execIny s
  | .dex => Sys2Proof.Machine.execDex s
  | .dey => Sys2Proof.Machine.execDey s
  -- Transfer
  | .tax => Sys2Proof.Machine.execTax s
  | .tay => Sys2Proof.Machine.execTay s
  | .txa => Sys2Proof.Machine.execTxa s
  | .tya => Sys2Proof.Machine.execTya s
  | .txy => Sys2Proof.Machine.execTxy s
  | .tyx => Sys2Proof.Machine.execTyx s
  | .txs => Sys2Proof.Machine.execTxs s
  | .tsx => Sys2Proof.Machine.execTsx s
  | .tcs => Sys2Proof.Machine.execTcs s
  | .tsc => Sys2Proof.Machine.execTsc s
  | .tcd => Sys2Proof.Machine.execTcd s
  | .tdc => Sys2Proof.Machine.execTdc s
  | .xba => Sys2Proof.Machine.execXba s
  -- Stack
  | .pha => Sys2Proof.Machine.execPha s
  | .phx => Sys2Proof.Machine.execPhx s
  | .phy => Sys2Proof.Machine.execPhy s
  | .php => Sys2Proof.Machine.execPhp s
  | .phb => Sys2Proof.Machine.execPhb s
  | .phk => Sys2Proof.Machine.execPhk s
  | .phd => Sys2Proof.Machine.execPhd s
  | .pla => Sys2Proof.Machine.execPla s
  | .plx => Sys2Proof.Machine.execPlx s
  | .ply => Sys2Proof.Machine.execPly s
  | .plp => Sys2Proof.Machine.execPlp s
  | .plb => Sys2Proof.Machine.execPlb s
  | .pld => Sys2Proof.Machine.execPld s
  -- Control
  | .bpl r => Sys2Proof.Machine.execBpl r s
  | .bmi r => Sys2Proof.Machine.execBmi r s
  | .bvc r => Sys2Proof.Machine.execBvc r s
  | .bvs r => Sys2Proof.Machine.execBvs r s
  | .bcc r => Sys2Proof.Machine.execBcc r s
  | .bcs r => Sys2Proof.Machine.execBcs r s
  | .bne r => Sys2Proof.Machine.execBne r s
  | .beq r => Sys2Proof.Machine.execBeq r s
  | .bra r => Sys2Proof.Machine.execBra r s
  | .jml b a => Sys2Proof.Machine.execJml b a s
  | .jsl b a => Sys2Proof.Machine.execJsl b a s
  | .rtl => Sys2Proof.Machine.execRtl s
  -- Status
  | .clc => Sys2Proof.Machine.execClc s
  | .sec => Sys2Proof.Machine.execSec s
  | .cli => Sys2Proof.Machine.execCli s
  | .sei => Sys2Proof.Machine.execSei s
  | .cld => Sys2Proof.Machine.execCld s
  | .sed => Sys2Proof.Machine.execSed s
  | .clv => Sys2Proof.Machine.execClv s
  | .rep k => Sys2Proof.Machine.execRep k s
  | .sep k => Sys2Proof.Machine.execSep k s
  | .xce => Sys2Proof.Machine.execXce s
  | .nop => Sys2Proof.Machine.execNop s
  | .rti => Sys2Proof.Machine.execRti s

end Sys2Proof.Machine
end

