-- ==== Sys2Proof/Machine/Ppu.lean ====
section
/-! DEFINITION. The picture compositing pipeline: sprite selection and emission (49 R370 to R378), the tile and
bitplane unpacker (R384 to R389), the layer priority mixer (R380 to R383, R390 to R392), the colour look-up
(R393) and one dot (R361). -/

namespace Sys2Proof.Machine

/-- `SPRITE_CAP` (49 R371). -/
def spriteCap : Nat := 32

/-- `TILE_CAP` (49 R376). -/
def tileCap : Nat := 34

/-- `OAM_ENTRIES` (10 R41). -/
def oamEntries : Nat := 128

/-! ### Video RAM -/

/-- `VRAM[a]`, byte addresses mod `VRAM_BYTES` (10 R40). With `VRAM_BYTES` 0, which the spec neither excludes nor
defines, an address is left as it is (log 29). -/
def State.vramByte (s : State) (a : Nat) : Byte := bytesRead s.pic.vram (a % s.cfg.vramBytes)

/-- `VRAMword(w)` (10 R40). -/
def State.vramWord (s : State) (w : Nat) : Word := word (s.vramByte (2 * w + 1)) (s.vramByte (2 * w))

/-- `CGRAM[k]` (10 R42). -/
def State.color (s : State) (k : Nat) : BitVec 15 := s.pic.cgram.get (Fin.ofNat 256 k)

/-! ### The sprite selector -/

/-- The entry's size by `obj_size_sel` and its size-toggle bit (49 R372). -/
def State.spriteSize (s : State) (e : OamEntry) : ObjSize :=
  let row := s.cfg.objSizeTable.get s.pic.obj.sizeSel.toFin
  if e.size then row.large else row.small

/-- `dy`, the row of the sprite on the line, mod 256 (49 R373); `line` plus 256 keeps the difference natural. -/
def spriteRow (line : Nat) (e : OamEntry) : Nat := (line + 256 - e.y.toNat) % 256

/-- The signed X, with exactly -256 normalised to 0 (49 R374). -/
def spriteX (e : OamEntry) : Int := if e.x.toInt = -256 then 0 else e.x.toInt

/-- The two tests of the selection (49 R371, R373, R374). -/
def State.qualifies (s : State) (line : Nat) (e : OamEntry) : Bool :=
  decide (spriteRow line e < (s.spriteSize e).height)
    && decide (-((s.spriteSize e).width : Int) < spriteX e)

/-- The k-th entry of the scan, from `oam_first`, wrapping at 128 (49 R371). -/
def State.scanIndex (s : State) (k : Nat) : Fin 128 := Fin.ofNat 128 (s.pic.obj.oamFirst.toNat + k)

/-- The entries that qualify for a line, in scan order (49 R371). -/
def State.qualifying (s : State) (line : Nat) : List (Fin 128) :=
  ((List.range oamEntries).map s.scanIndex).filter (fun i => s.qualifies line (s.pic.oam.get i))

/-- The selected entries: the first 32 that qualify; the scan stops at the 33rd (49 R371). -/
def State.selected (s : State) (line : Nat) : List (Fin 128) := (s.qualifying line).take spriteCap

/-- Whether a 33rd entry qualifies (49 R371). -/
def State.selectOverflow (s : State) (line : Nat) : Bool :=
  decide ((s.qualifying line).length > spriteCap)

/-- The base of the sprite's character memory, a byte address (49 R375). -/
def State.objBase (s : State) (e : OamEntry) : Nat :=
  s.pic.obj.nameBase.toNat * 16384
    + (if e.name then (s.pic.obj.nameSelect.toNat + 1) * 8192 else 0)

/-- The tile number at column t, row r of a sprite: each nibble wraps on its own (49 R375). -/
def spriteTileNumber (tile : Byte) (t r : Nat) : Nat :=
  ((tile.toNat / 16 + r) % 16) * 16 + (tile.toNat % 16 + t) % 16

/-- The character address of a sprite's tile (49 R375; VRAM_BYTES 0: log 29). -/
def State.spriteChr (s : State) (e : OamEntry) (t r : Nat) : Nat :=
  (s.objBase e + spriteTileNumber e.tile t r * 32) % s.cfg.vramBytes

/-- The descriptors of one sprite on a line, left to right (49 R376, R377); flips are not applied (R378). The widths of
R372 are multiples of 8; of any other width a parameter table gives, the pixels past the last multiple of 8 get no
descriptor (DESIGN CHOICE, log 30). -/
def State.spriteTiles (s : State) (line : Nat) (i : Fin 128) : List Tile :=
  let e := s.pic.oam.get i
  let dy := spriteRow line e
  (List.range ((s.spriteSize e).width / 8)).map fun t =>
    { chr := s.spriteChr e t (dy / 8), sx := spriteX e + 8 * (t : Int), ty := dy % 8,
      prio := e.prio, palette := e.palette }

/-- Every descriptor the selected sprites have, in reverse selection order, before the cap (49 R376). -/
def State.allTiles (s : State) (line : Nat) : List Tile :=
  (s.selected line).reverse.flatMap (s.spriteTiles line)

/-- `rebuild(line)`: emission stops at the 35th descriptor; the two conditions are set, never cleared
(49 R370, R371, R376; 10 R46). -/
def rebuild (line : Nat) (s : State) : State :=
  { s with dots := { s.dots with
      tiles := (s.allTiles line).take tileCap
      tilesLine := some line
      rangeOver := s.dots.rangeOver || s.selectOverflow line
      timeOver := s.dots.timeOver || decide ((s.allTiles line).length > tileCap) } }

/-- A pixel lookup for a line the list was not built for builds it first (49 R370). -/
def ensureTiles (line : Nat) (s : State) : State :=
  if s.dots.tilesLine = some line then s else rebuild line s

/-! ### Tiles and bitplanes -/

/-- n of a depth (49 R389). -/
def planes : Depth → Nat
  | .two => 2
  | .four => 4
  | .eight => 8

/-- Bit `7 - col` of a plane's row byte: the leftmost pixel is bit 7 (49 R387). -/
def planeBit (b : Byte) (col : Nat) : Nat := (b.getLsbD (7 - col)).toNat

/-- The two index bits of pair k (49 R387). -/
def State.pairBits (s : State) (chr row col k : Nat) : Nat :=
  let a := chr + 16 * k + 2 * row
  planeBit (s.vramByte a) col + 2 * planeBit (s.vramByte (a + 1)) col

/-- `decode(chr, n, row, col)` over the first `pairs` pairs of planes (49 R387). -/
def State.decodePairs (s : State) (chr row col : Nat) : Nat → Nat
  | 0 => 0
  | k + 1 => s.decodePairs chr row col k + s.pairBits chr row col k * 4 ^ k

/-- `decode(chr, n, row, col)` (49 R387). -/
def State.decodePixel (s : State) (chr n row col : Nat) : Nat := s.decodePairs chr row col (n / 2)

/-- A tilemap entry (49 R384). -/
structure TilemapEntry where
  vflip   : Bool
  hflip   : Bool
  prio    : Bool
  palette : BitVec 3
  tile    : BitVec 10
  deriving DecidableEq, Repr, Inhabited

/-- The fields of a tilemap word (49 R384). -/
def tilemapEntry (w : Word) : TilemapEntry :=
  { vflip := w.getLsbD 15, hflip := w.getLsbD 14, prio := w.getLsbD 13,
    palette := w.extractLsb' 10 3, tile := w.extractLsb' 0 10 }

/-- `map_address(b, tx, ty)` before the base and the reduction: the offset of the entry (49 R385). -/
def mapOffset (l : BgLayer) (tx ty : Nat) : Nat :=
  let cx := tx % 64
  let cy := ty % 64
  (cy % 32) * 32 + cx % 32
    + (if !l.mapHmirror && decide (cx ≥ 32) then 0x400 else 0)
    + (if !l.mapVmirror && decide (cy ≥ 32) then (if !l.mapHmirror then 0x800 else 0x400) else 0)

/-- `map_address(b, tx, ty)`, a word address (49 R385; VRAM_BYTES 0, 1 or odd: log 29). -/
def State.mapAddress (s : State) (b : Fin 4) (tx ty : Nat) : Nat :=
  let l := s.pic.layers.get b
  (l.mapBase + mapOffset l tx ty) % (s.cfg.vramBytes / 2)

/-- `palette_base(b, n, pal)`; layer index 0 is BG1 (49 R388). -/
def State.paletteBase (s : State) (b : Fin 4) (n : Depth) (pal : BitVec 3) : Nat :=
  match n with
  | .two => if s.pic.bgMode = 0 then b.val * 32 + pal.toNat * 4 else pal.toNat * 4
  | .four => pal.toNat * 16
  | .eight => 0

/-! ### The priority mixer -/

/-- Whether a descriptor covers column x at priority p (49 R382). -/
def covers (x : Nat) (p : BitVec 2) (d : Tile) : Bool :=
  decide (d.prio = p) && decide (d.sx ≤ (x : Int)) && decide ((x : Int) < d.sx + 8)

/-- The decoded index of a sprite descriptor at column x (49 R382). -/
def State.tileIndex (s : State) (x : Nat) (d : Tile) : Nat :=
  s.decodePixel d.chr 4 d.ty ((x : Int) - d.sx).toNat

/-- The colour of a descriptor at column x, none when transparent (49 R382). -/
def State.tileColor (s : State) (x : Nat) (d : Tile) : Option Nat :=
  let idx := s.tileIndex x d
  if idx = 0 then none else some (128 + d.palette.toNat * 16 + idx)

/-- `sprite_candidate(x, line, p)` on the tile list of the line (49 R382). -/
def State.spriteCandidate (s : State) (x : Nat) (p : BitVec 2) : Option Nat :=
  match s.cfg.spriteLookup with
  | .firstCovering =>
    match s.dots.tiles.find? (covers x p) with
    | none => none
    | some d => s.tileColor x d
  | .firstOpaque => (s.dots.tiles.filter (covers x p)).findSome? (s.tileColor x)

/-- `bg_candidate(b, p, x, line)`; a layer the mode does not have is transparent (49 R383; log 26; VRAM_BYTES 0:
log 29). -/
def State.bgCandidate (s : State) (row : BgModeRow) (b : Fin 4) (p : Bool) (x line : Nat) : Option Nat :=
  let l := s.pic.layers.get b
  let px := (x + l.hofs.toNat) % 1024
  let py := (line + l.vofs.toNat) % 1024
  let ent := tilemapEntry (s.vramWord (s.mapAddress b (px / 8) (py / 8)))
  match row.depth.get b with
  | none => none
  | some n =>
    if ent.prio = p then
      let fx := if ent.hflip then 7 - px % 8 else px % 8
      let fy := if ent.vflip then 7 - py % 8 else py % 8
      let chr := (l.chrBase * 2 + ent.tile.toNat * 8 * planes n) % s.cfg.vramBytes
      let idx := s.decodePixel chr (planes n) fy fx
      if idx = 0 then none else some (s.paletteBase b n ent.palette + idx)
    else none

/-- A candidate's colour index, none when transparent (49 R380). -/
def State.candidate (s : State) (row : BgModeRow) (x line : Nat) : Candidate → Option Nat
  | .sprite p => s.spriteCandidate x p
  | .bg b p => s.bgCandidate row b p x line

/-- The first candidate in the order that is not transparent, else the backdrop, index 0 (49 R380, R392). -/
def State.winner (s : State) (row : BgModeRow) (x line : Nat) : Nat :=
  (row.order.findSome? (s.candidate row x line)).getD 0

/-- `rgb(c)`: each 5-bit channel shifted left by 3 (49 R393). -/
def rgb (c : BitVec 15) : Rgb :=
  { r := (c.extractLsb' 0 5).setWidth 8 <<< 3
    g := (c.extractLsb' 5 5).setWidth 8 <<< 3
    b := (c.extractLsb' 10 5).setWidth 8 <<< 3 }

/-- Whether a pixel lies in the debug region (49 R381). -/
def State.inDebugRegion (s : State) (x line : Nat) : Bool :=
  decide (x < s.cfg.debugRegion.width) && decide (line < s.cfg.debugRegion.height)

/-- The colour index the debug region gives a pixel (49 R381; log 25). -/
def State.debugIndex (s : State) (x line : Nat) : Nat :=
  (s.cfg.debugRegion.index.getD (line * s.cfg.debugRegion.width + x) 0).toNat

/-- `pixel(x, line)` (49 R380, R381, R391). -/
def pixel (x line : Nat) (s : State) : Except Fault (Rgb × State) :=
  let t := ensureTiles line s
  if s.inDebugRegion x line then .ok (rgb (t.color (t.debugIndex x line)), t)
  else
    match s.cfg.bgModeTable.get s.pic.bgMode.toFin with
    | none => .error (.unsupportedBgMode s.pic.bgMode)
    | some row => .ok (rgb (t.color (t.winner row x line)), t)

/-! ### One dot -/

/-- What one dot reports (48 R326). -/
structure DotEvents where
  cycles : Nat
  hblank : Bool
  vblank : Bool
  deriving DecidableEq, Repr, Inhabited

/-- `frame[line][x] <- c` (49 R361; log 20). -/
def State.setPixel (s : State) (line x : Nat) (c : Rgb) : State :=
  { s with dots := { s.dots with
      frame := cellPut (line * s.cfg.geometry.visibleW + x) c s.dots.frame } }

/-- The work of the current position: the rebuild at the start of a visible line, the pixel of a visible
dot (49 R361 step 1). -/
def dotWork (s : State) : Except Fault State :=
  let g := s.cfg.geometry
  let h := s.dots.h
  let v := s.dots.v
  let s := if h = 0 ∧ v < g.visibleH then rebuild v s else s
  if h < g.visibleW ∧ v < g.visibleH then
    readThen (pixel h v s) fun c s => .ok (s.setPixel v h c)
  else .ok s

/-- The next horizontal position (49 R361 step 2). -/
def nextH (g : Geometry) (h : Nat) : Nat := if h + 1 = g.dotsPerLine then 0 else h + 1

/-- The next vertical position (49 R361 step 2). -/
def nextV (g : Geometry) (h v : Nat) : Nat :=
  if h + 1 = g.dotsPerLine then (if v + 1 = g.linesPerFrame then 0 else v + 1) else v

/-- The move to the next position (49 R361 step 2). -/
def dotMove (s : State) : State :=
  { s with dots := { s.dots with
      h := nextH s.cfg.geometry s.dots.h
      v := nextV s.cfg.geometry s.dots.h s.dots.v } }

/-- The events of a position (49 R361 step 3). -/
def dotEvents (s : State) : DotEvents :=
  { cycles := s.cfg.dotMasterCycles
    hblank := decide (s.dots.h = s.cfg.geometry.hblankDot)
    vblank := decide (s.dots.h = 0 ∧ s.dots.v = s.cfg.geometry.vblankLine) }

/-- `ppu_advance()` (49 R361). -/
def ppuAdvance (s : State) : Except Fault (DotEvents × State) :=
  writeThen (dotWork s) fun s => .ok (dotEvents (dotMove s), dotMove s)

end Sys2Proof.Machine
end

