-- ==== Sys2Proof/Machine/Sched.lean ====
section
/-! DEFINITION. The scheduler around one CPU step: the fetch and decode of an instruction (30 R92, 47 R300), the
cycle accounting (48 R321, R328, R329), the audio drain (R331), the picture drain with the vertical-blank
interrupt (R332 to R336). -/

namespace Sys2Proof.Machine

/-! ### Fetch and decode -/

/-- Bytes the decoder does not read as an instruction: the one reason left after `fetchInstr` has fetched
what the opcode byte asks for is an illegal opcode (47 R300). -/
def decodeFault (op pbr : Byte) (pc : Word) : DecodeError → Fault
  | .empty => .illegalOpcode op pbr pc
  | .illegalOpcode _ => .illegalOpcode op pbr pc
  | .truncated _ => .illegalOpcode op pbr pc

/-- The row of R100 an opcode byte is recognised as on this machine (`OPTABLE`; 30 R100, log 16). -/
def State.opRow (s : State) (op : Byte) : Option Byte := s.cfg.opTable.get op.toFin

/-- Fetch the opcode byte, then as many operand bytes as its row asks for under the width predicates of now, and
decode them; the answer is the opcode byte fetched and the instruction (30 R92, 47 R300 steps 2 to 4). An illegal
opcode is reported before any operand fetch. -/
def fetchInstr (s : State) : Except Fault ((Byte × Instr) × State) :=
  readThen (fetchb s) fun op t =>
  match s.opRow op with
  | none => .error (.illegalOpcode op s.cpu.pbr s.cpu.pc)
  | some row =>
    match opForm row with
    | none => .error (.illegalOpcode op s.cpu.pbr s.cpu.pc)
    | some f =>
      readThen (fetchBytes (f.operandBytes t.m8 t.x8) t) fun bs u =>
      match decode t.m8 t.x8 (row :: bs) with
      | .error e => .error (decodeFault op s.cpu.pbr s.cpu.pc e)
      | .ok r => .ok ((op, r.1), u)

/-- The trap with this opcode byte in its info, where the info holds one that the instruction put there (60 R421):
the byte fetched, which `OPTABLE` may recognise as another byte's row (log 16). -/
def Fault.withOpcode (f : Fault) (op : Byte) : Fault :=
  match f with
  | .privilegedFlagInEmulation _ k => .privilegedFlagInEmulation op k
  | .decimalArithmetic _ b o => .decimalArithmetic op b o
  | .illegalOpcode _ _ _ | .addressOfImmediate _ | .immediateWidthMismatch _ | .storeToImmediate _
  | .wordCrossesBank _ _ | .addressOverflow24 _ _ _ | .busUnmapped _ _ | .busAccessViolation _ _ _
  | .unsupportedHdma | .unsupportedCounterIrq | .unsupportedBgMode _ | .indexOverflow16 _ _ _
  | .pointerCrossesBank _ => f

/-! ### Accounting -/

/-- `dma_cycles <- 0` (48 R321 step 2). -/
def State.clearDma (s : State) : State := { s with sched := { s.sched with dmaCycles := 0 } }

/-- `CYCLES[op]` (47 R300 step 6). -/
def State.cyclesOf (s : State) (op : Byte) : Nat := s.cfg.cycles.get op.toFin

/-- `mc`, the master cycles of the iteration's instruction (48 R321 step 4). -/
def State.masterCost (s : State) (op : Byte) : Nat :=
  s.cyclesOf op * s.cfg.cpuMasterRatio + s.sched.dmaCycles

/-- `master`, `apu_debt` and `ppu_debt` grow by `mc` (48 R321 step 5). -/
def State.charge (s : State) (mc : Nat) : State :=
  { s with sched := { s.sched with
      master := s.sched.master + mc
      apuDebt := s.sched.apuDebt + mc
      ppuDebt := s.sched.ppuDebt + mc } }

/-! ### The audio drain -/

/-- The state with this audio debt and this state of the black boxes: all an audio step changes (48 R325). -/
def State.withApu (s : State) (p : Int × Nat) : State :=
  { s with sched := { s.sched with apuDebt := p.1 }, box := { s.box with hidden := p.2 } }

/-- The cycles of one audio step: any n >= 1 (48 R325; log 7). -/
def apuCycles (s : State) : Nat := (Config.freeApuStep s).extra + 1

/-- The audio debt and the black boxes' state after the drain, from those before it; each step lowers the debt, so
`fuel` at the debt reaches the loop's end (48 R331; log 21). -/
def apuLoop (s : State) : Nat → Int × Nat → Int × Nat
  | 0, p => p
  | fuel + 1, p =>
    if p.1 > (s.cfg.apuDivisor : Int) then
      apuLoop s fuel (p.1 - (apuCycles (s.withApu p) * s.cfg.apuDivisor : Nat),
        (Config.freeApuStep (s.withApu p)).hidden)
    else p

/-- The audio drain (48 R331). -/
def apuDrain (s : State) : State :=
  s.withApu (apuLoop s s.sched.apuDebt.toNat (s.sched.apuDebt, s.box.hidden))

/-! ### The picture drain -/

/-- `on_hblank()` does nothing (48 R333). -/
def onHblank (s : State) : State := s

/-- `input_latch()` (48 R327, R334; log 8). -/
def inputLatch (s : State) : State :=
  { s with box := { s.box with hidden := Config.freeInputLatch s, latches := s.box.latches + 1 } }

/-- `ppu_debt <- ppu_debt - c` (48 R332). -/
def State.payDots (s : State) (c : Nat) : State :=
  { s with sched := { s.sched with ppuDebt := s.sched.ppuDebt - c } }

/-- `irq_pending <- 1` (48 R334). -/
def State.markIrq (s : State) : State := { s with sched := { s.sched with irqPending := true } }

/-- The picture drain: dots while the debt is positive; at a vertical blank the input latch, then, if enabled,
the interrupt, which breaks the drain off (48 R332, R334). Each dot costs at least one cycle, so `fuel` at
the debt reaches the loop's end (log 21). -/
def ppuLoop : Nat → State → Except Fault State
  | 0, s => .ok s
  | fuel + 1, s =>
    if s.sched.ppuDebt > 0 then
      readThen (ppuAdvance s) fun ev t =>
      let t := t.payDots ev.cycles
      let t := if ev.hblank then onHblank t else t
      if ev.vblank then
        let t := inputLatch t
        if t.sched.nmiEnable then cpuInterrupt t.markIrq else ppuLoop fuel t
      else ppuLoop fuel t
    else .ok s

/-- The picture drain (48 R332). -/
def ppuDrain (s : State) : Except Fault State := ppuLoop s.sched.ppuDebt.toNat s

/-- What an iteration does after its instruction `i` completed: steps 4 to 7 of 48 R321. -/
def settle (op : Byte) (s : State) : Except Fault State := ppuDrain (apuDrain (s.charge (s.masterCost op)))

end Sys2Proof.Machine
end

