-- ==== Sys2Proof/Machine/Step.lean ====
section
/-! DEFINITION. One step of the machine: one scheduler iteration (48 R321, log 1). -/

namespace Sys2Proof.Machine

/-- What an instruction answers, then the rest of the iteration: after a next state the settling of its cycles (48
R321 steps 4 to 7); a trap names the opcode byte that was fetched. -/
def afterExec (op : Byte) (o : Host.Outcome State Fault Refusal) : Host.Outcome State Fault Refusal :=
  match o with
  | .next s => finish (settle op s)
  | .fault f => .fault (f.withOpcode op)
  | .refused r => .refused r

/-- `cpu_step()` and the rest of the iteration: `dma_cycles` zeroed, the instruction fetched and decoded, its
meaning run, its cycles settled (48 R321 steps 2 to 7, 47 R300). -/
def iteration (s : State) : Host.Outcome State Fault Refusal :=
  match fetchInstr s.clearDma with
  | .error f => .fault f
  | .ok r => afterExec r.1.1 (exec r.1.2 r.2)

/-- `sched_iteration()` (48 R321). A halted machine takes no step (60 R420; log 11); parameters the spec tells a
model to refuse are refused (log 14); the two unsupported features trap first, HDMA before counter matches
(48 R340). -/
def step (s : State) : Host.Outcome State Fault Refusal :=
  match s.halt with
  | some f => .fault f
  | none =>
    if configOk s.cfg then
      if s.sched.hdmaEnable then .fault .unsupportedHdma
      else if s.sched.hvIrqEnable then .fault .unsupportedCounterIrq
      else iteration s
    else .refused .invalidConfiguration

/-- Bytes placed at consecutive offsets of a bank, the offset wrapping at 16 bits as the fetch does. -/
def placeBytes (b : Byte) : List Byte → Word → State → State
  | [], _, s => s
  | v :: vs, o, s => placeBytes b vs (o + 1) (s.storeByte b o v)

/-- The table word's bytes stored where the next step fetches, at PBR:PC (log 17). -/
def State.withFetchWord (s : State) (nbits w : Nat) : State :=
  placeBytes s.cpu.pbr (tableBytes nbits w) s.cpu.pc s

end Sys2Proof.Machine
end

