-- ==== Sys2Proof/Machine/Reset.lean ====
section
/-! DEFINITION. Reset as construction (70 R470): the launch state the host supplies (R472), the register file, and
the two reads of the reset vector. -/

namespace Sys2Proof.Machine

/-- What the host supplies: the parameters, the memory behind the bus, the picture state (70 R472). -/
structure Launch where
  cfg : Config
  mem : Memory
  pic : Picture
  deriving DecidableEq, Repr

/-- `RESET_VECTOR` (00 R7). -/
def resetVector : Word := 0xFFFC

/-- The state before the vector is read (70 R470 step 1). -/
def Launch.state (l : Launch) : State :=
  { halt := none, cpu := Cpu.reset 0x0000, sched := Sched.reset, pic := l.pic,
    dots := Dots.reset, mem := l.mem, box := Box.reset, cfg := l.cfg }

/-- Construction: every field of 10 R50, then PC from the reset vector, low byte first; a bus fault on
either read ends the run before any instruction (70 R470, 10 R50). -/
def construct (l : Launch) : Except Fault State :=
  readThen (busLoadWord 0x00 resetVector l.state) fun pc s => .ok (s.setPc pc)

end Sys2Proof.Machine
end

