-- ==== Sys2Proof/Machine/Run.lean ====
section
/-! DEFINITION. The run and its end reasons (48 R322, 60 R420, 70 R472). -/

namespace Sys2Proof.Machine

/-- The terminal state of a fatal trap: `halt` holds the reason; nothing else of it is promised (60 R420, 10
R36; log 11). -/
def State.halted (s : State) (f : Fault) : State := { s with halt := some f }

/-- How a run ends (60 R420): in a fatal trap, with the budget spent, or not within the iterations looked at; a
refusal is the model's own. -/
inductive RunEnd where
  | fatal (s : State)
  | budgetExhausted (s : State)
  | running (s : State)
  | refused (r : Refusal)
  deriving DecidableEq, Repr

/-- Whether the budget is spent: `master >= BUDGET`; none is infinity (48 R322). -/
def budgetSpent (budget : Option Nat) (s : State) : Bool :=
  match budget with
  | none => false
  | some b => decide (b ≤ s.sched.master)

/-- `run(BUDGET)` over at most `fuel` iterations: the test comes after each iteration (48 R322). -/
def run (budget : Option Nat) : Nat → State → RunEnd
  | 0, s => .running s
  | fuel + 1, s =>
    match step s with
    | .fault f => .fatal (s.halted f)
    | .refused r => .refused r
    | .next t => if budgetSpent budget t then .budgetExhausted t else run budget fuel t

end Sys2Proof.Machine
end

