-- ==== Sys2Proof/WellFormed.lean ====
section
/-! DEFINITION. Which instructions the decoder can build under given width predicates (30_encoding R97). -/

namespace Sys2Proof

/-- An immediate operand has the width `narrow` says: one byte if it holds, two otherwise (R97). -/
def immFits (narrow : Bool) : Option Variant → Bool
  | some (.imm8 _) => narrow
  | some (.imm16 _) => !narrow
  | _ => false

/-- An instruction is well-formed under the width predicates when an IMMM operand has the width of `m8` and
an IMMX operand that of `x8` (R93, R97); every operand value of every other format is legal (R102). -/
def Instr.wf (m8 x8 : Bool) (i : Instr) : Bool :=
  match i.format with
  | .immM => immFits m8 i.variant?
  | .immX => immFits x8 i.variant?
  | .imp | .acc | .imm8 | .dp | .dpx | .ily | .rel | .abs | .absx | .long | .longx => true

end Sys2Proof
end

