-- ==== Sys2Proof/Safety.lean ====
section
/-! DEFINITION. The terms claims use: what a ready machine is, plain memory behind the bus, the effective address
and the operand accesses as relations written from 40_addressing_modes R122 to R135, the invariant of the
machine, and the parts of State an operation keeps. -/

namespace Sys2Proof.Machine

/-! ### Ready machines and plain memory -/

/-- The machine may take an iteration: not halted, parameters the spec does not refuse, neither unsupported
feature enabled (48 R321 step 1, 60 R420). -/
structure State.Ready (s : State) : Prop where
  running  : s.halt = none
  params   : configOk s.cfg = true
  noHdma   : s.sched.hdmaEnable = false
  noCounter : s.sched.hvIrqEnable = false

/-- The byte of the memory behind the bus at (bank, offset). -/
def State.byteAt (s : State) (b : Byte) (o : Word) : Byte := bytesRead s.mem (s.busAddr b o)

/-- (bank, offset) is memory the bus lets the program read. -/
def State.PlainRead (s : State) (b : Byte) (o : Word) : Prop :=
  ∃ w, s.window b o = some w ∧ w.kind = .memory ∧ w.readable = true

/-- (bank, offset) is memory the bus lets the program write. -/
def State.PlainWrite (s : State) (b : Byte) (o : Word) : Prop :=
  ∃ w, s.window b o = some w ∧ w.kind = .memory ∧ w.writable = true

/-- (bank, offset) is RAM: memory that returns what was stored (20 R69). -/
def State.Ram (s : State) (b : Byte) (o : Word) : Prop := s.PlainRead b o ∧ s.PlainWrite b o

/-- Every window of the bus is memory: no device, no register. -/
def State.NoDevices (s : State) : Prop := ∀ w ∈ s.cfg.bus.windows, w.kind = .memory

/-- No answer of a device, whatever the state, writes memory behind the bus. -/
def DevicesKeepMemory : Prop :=
  ∀ (s : State) (a : Nat) (v : Byte),
    (∀ x y, .mem x y ∉ (Config.freeDeviceLoad s a).effects) ∧
    ∀ x y, .mem x y ∉ (Config.freeDeviceStore s a v).effects

/-- No access to this machine's bus writes memory through a device: nothing but memory answers a load and no
window is a device, or the devices on it never do that. What R68 lets a device do is open (log 5). -/
def State.Quiet (s : State) : Prop :=
  (∀ w ∈ s.cfg.bus.windows, w.kind = .memory ∨ (w.kind ≠ .device ∧ w.readable = false)) ∨ DevicesKeepMemory

/-- A store to (bank, offset) does not reach the DMA-enable register (20 R75). -/
def State.NoDma (s : State) (b : Byte) (o : Word) : Prop :=
  ∀ w, s.window b o = some w → w.kind ≠ .dmaEnable

/-- Two addresses name different bytes behind the bus: neither is a mirror of the other (20 R64, log 4). -/
def State.Apart (s : State) (b : Byte) (o : Word) (b' : Byte) (o' : Word) : Prop :=
  s.busAddr b o ≠ s.busAddr b' o'

/-! ### Operand accesses as relations -/

/-- `address(am)` in state `s` is (`b`, `o`), and computing it leaves state `t`; `t` differs from `s` only when
the pointer of `IndLongY` lies in a device (R122 to R129). Written over natural numbers, as the rules are. -/
def EffAddr (am : Variant) (s : State) (b : Byte) (o : Word) (t : State) : Prop :=
  match am with
  | .imm8 _ => False
  | .imm16 _ => False
  | .abs a => b = s.cpu.dbr ∧ o = a ∧ t = s
  | .absLong k a => b = k ∧ o = a ∧ t = s
  | .absX a => b = s.cpu.dbr ∧ o.toNat = a.toNat + s.xi.toNat ∧ t = s
  | .absLongX k a =>
    b.toNat * 65536 + o.toNat = k.toNat * 65536 + a.toNat + s.xi.toNat ∧ t = s
  | .direct d => b = 0x00 ∧ o.toNat = (s.cpu.d.toNat + d.toNat) % 65536 ∧ t = s
  | .directX d =>
    b = 0x00 ∧ o.toNat = (s.cpu.d.toNat + d.toNat + s.xi.toNat) % 65536 ∧ t = s
  | .rel r => b = s.cpu.pbr ∧ (o.toNat : Int) = (s.cpu.pc.toNat + r.toInt) % 65536 ∧ t = s
  | .indLongY d =>
    ∃ p : Word, p.toNat = (s.cpu.d.toNat + d.toNat) % 65536 ∧ p.toNat ≤ 0xFFFD ∧
      ∃ l m h s1 s2, busLoad 0x00 p s = .ok (l, s1) ∧ busLoad 0x00 (p + 1) s1 = .ok (m, s2) ∧
        busLoad 0x00 (p + 2) s2 = .ok (h, t) ∧
        b.toNat * 65536 + o.toNat
          = h.toNat * 65536 + m.toNat * 256 + l.toNat + s.yi.toNat

/-- `loadb(am)` in state `s` returns `v` and leaves state `t` (R132). -/
def LoadsByte (am : Variant) (s : State) (v : Byte) (t : State) : Prop :=
  (am = .imm8 v ∧ t = s) ∨ ∃ b o u, EffAddr am s b o u ∧ busLoad b o u = .ok (v, t)

/-- `loadw(am)` in state `s` returns `v` and leaves state `t`: low byte first, never from offset 0xFFFF (R133). -/
def LoadsWord (am : Variant) (s : State) (v : Word) (t : State) : Prop :=
  (am = .imm16 v ∧ t = s) ∨
    ∃ b o u l w h, EffAddr am s b o u ∧ o ≠ 0xFFFF ∧ busLoad b o u = .ok (l, w) ∧
      busLoad b (o + 1) w = .ok (h, t) ∧ v.toNat = h.toNat * 256 + l.toNat

/-- `storeb(am, v)` in state `s` leaves state `t` (R134). -/
def StoresByte (am : Variant) (v : Byte) (s t : State) : Prop :=
  ∃ b o u, EffAddr am s b o u ∧ busStore b o v u = .ok t

/-- A word stored at (bank, offset), low byte first (20 R67). -/
def PutsWord (b : Byte) (o : Word) (v : Word) (s t : State) : Prop :=
  ∃ w, busStore b o (v.setWidth 8) s = .ok w ∧ busStore b (o + 1) ((v >>> 8).setWidth 8) w = .ok t

/-- `storew(am, v)` in state `s` leaves state `t`: low byte first, never at offset 0xFFFF (R135). -/
def StoresWord (am : Variant) (v : Word) (s t : State) : Prop :=
  ∃ b o u, EffAddr am s b o u ∧ o ≠ 0xFFFF ∧ PutsWord b o v u t

/-- A read-modify-write of one byte: one address, the byte `v` read there, `r` written there; `w` is the state
between the read and the write (43 R200). -/
def ModifiesByte (am : Variant) (s : State) (v r : Byte) (w t : State) : Prop :=
  ∃ b o u, EffAddr am s b o u ∧ busLoad b o u = .ok (v, w) ∧ busStore b o r w = .ok t

/-- A read-modify-write of one word: one address, both reads before both writes (43 R200). -/
def ModifiesWord (am : Variant) (s : State) (v r : Word) (w t : State) : Prop :=
  ∃ b o u l x h, EffAddr am s b o u ∧ o ≠ 0xFFFF ∧ busLoad b o u = .ok (l, x) ∧
    busLoad b (o + 1) x = .ok (h, w) ∧ v.toNat = h.toNat * 256 + l.toNat ∧ PutsWord b o r w t

/-! ### The stack as relations -/

/-- The pointer after a push, as 45_stack R240 computes it. -/
def SpBelow (e : Bool) (sp sp' : Word) : Prop :=
  if e then sp'.toNat = 0x100 + (sp.toNat % 256 + 255) % 256 else sp'.toNat = (sp.toNat + 65535) % 65536

/-- The pointer after a pop, as R242 computes it. -/
def SpAbove (e : Bool) (sp sp' : Word) : Prop :=
  if e then sp'.toNat = 0x100 + (sp.toNat % 256 + 1) % 256 else sp'.toNat = (sp.toNat + 1) % 65536

/-- `pushb(v)` in state `s` leaves `t`: the store at S first, then the pointer (R240). -/
def PushesByte (v : Byte) (s t : State) : Prop :=
  ∃ u sp, busStore 0x00 s.cpu.s v s = .ok u ∧ SpBelow s.cpu.e s.cpu.s sp ∧ t = u.setS sp

/-- `pushw(v)`: high byte first (R241). -/
def PushesWord (v : Word) (s t : State) : Prop :=
  ∃ u, PushesByte ((v >>> 8).setWidth 8) s u ∧ PushesByte (v.setWidth 8) u t

/-- `popb()` returns `v`: the pointer first, then the load (R242). -/
def PopsByte (v : Byte) (s t : State) : Prop :=
  ∃ sp, SpAbove s.cpu.e s.cpu.s sp ∧ busLoad 0x00 sp (s.setS sp) = .ok (v, t)

/-- `popw()` returns `v`: low byte first (R243). -/
def PopsWord (v : Word) (s t : State) : Prop :=
  ∃ l h u, PopsByte l s u ∧ PopsByte h u t ∧ v.toNat = h.toNat * 256 + l.toNat

/-- The `n` offsets the next `n` pushes store to, first to last. -/
def pushOffsets (e : Bool) : Nat → Word → List Word
  | 0, _ => []
  | n + 1, sp => sp :: pushOffsets e n (stackDown e sp)

/-- The next `n` stack bytes are RAM, each a byte of its own behind the bus. -/
def State.StackRam (s : State) (n : Nat) : Prop :=
  (∀ o ∈ pushOffsets s.cpu.e n s.cpu.s, s.Ram 0x00 o) ∧
    (pushOffsets s.cpu.e n s.cpu.s).Pairwise (fun o o' => s.Apart 0x00 o 0x00 o')

/-! ### Flags -/

/-- P goes from `p` to `q` with the named flags written where a value is given and every other bit kept. -/
structure FlagsBecome (p q : Byte) (n v z c : Option Bool) : Prop where
  n : getFlag q .n = n.getD (getFlag p .n)
  v : getFlag q .v = v.getD (getFlag p .v)
  m : getFlag q .m = getFlag p .m
  x : getFlag q .x = getFlag p .x
  d : getFlag q .d = getFlag p .d
  i : getFlag q .i = getFlag p .i
  z : getFlag q .z = z.getD (getFlag p .z)
  c : getFlag q .c = c.getD (getFlag p .c)

/-- N and Z from a value, no other flag (00 R12). -/
abbrev NzBecome {w : Nat} (p q : Byte) (r : BitVec w) : Prop :=
  FlagsBecome p q (some r.msb) none (some (decide (r.toNat = 0))) none

/-! ### What instructions are about -/

end Sys2Proof.Machine

namespace Sys2Proof

/-- The mnemonics that read memory through a variant and store nothing. -/
def Mnemonic.isRead : Mnemonic → Bool
  | .LDA | .LDX | .LDY | .ADC | .SBC | .AND | .ORA | .EOR | .CMP | .CPX | .CPY | .BIT => true
  | _ => false

/-- The mnemonics that store a register or zero through a variant. -/
def Mnemonic.isStore : Mnemonic → Bool
  | .STA | .STX | .STY | .STZ => true
  | _ => false

/-- The mnemonics of the read-modify-write primitive (43 R200). -/
def Mnemonic.isModify : Mnemonic → Bool
  | .TSB | .TRB | .ASL | .LSR | .ROL | .ROR | .INC | .DEC => true
  | _ => false

/-- The mnemonics that push. -/
def Mnemonic.isPush : Mnemonic → Bool
  | .PHA | .PHX | .PHY | .PHP | .PHB | .PHK | .PHD | .JSL => true
  | _ => false

/-- The instruction stores to memory: a store, a push, or a read-modify-write with a variant. -/
def Instr.writesMemory (i : Instr) : Bool :=
  i.mnemonic.isStore || i.mnemonic.isPush || (i.mnemonic.isModify && i.variant?.isSome)

/-- The logic operation of a mnemonic (42 R174 to R176). -/
def Mnemonic.logic : Mnemonic → Option ((w : Nat) → BitVec w → BitVec w → BitVec w)
  | .AND => some fun _ a v => a &&& v
  | .ORA => some fun _ a v => a ||| v
  | .EOR => some fun _ a v => a ^^^ v
  | _ => none

/-- The result `r` and the carry out `k` of a shift, rotate, increment or decrement of `v` with carry in `k0`,
over natural numbers; no carry out where the carry flag is not written (43 R201 to R206). -/
def Mnemonic.Shifts {w : Nat} (m : Mnemonic) (k0 : Bool) (v r : BitVec w) (k : Option Bool) : Prop :=
  match m with
  | .ASL => r.toNat = v.toNat * 2 % 2 ^ w ∧ k = some (decide (2 ^ w ≤ v.toNat * 2))
  | .LSR => r.toNat = v.toNat / 2 ∧ k = some (decide (v.toNat % 2 = 1))
  | .ROL => r.toNat = (v.toNat * 2 + k0.toNat) % 2 ^ w ∧ k = some (decide (2 ^ w ≤ v.toNat * 2))
  | .ROR => r.toNat = (k0.toNat * 2 ^ w + v.toNat) / 2 ∧ k = some (decide (v.toNat % 2 = 1))
  | .INC => r.toNat = (v.toNat + 1) % 2 ^ w ∧ k = none
  | .DEC => (r.toNat + 1) % 2 ^ w = v.toNat ∧ k = none
  | _ => False

/-- What a read-modify-write instruction writes, `r`, for the value `v` it read, with accumulator `a` and carry `k0`
(42 R181, R182, 43 R201 to R206). -/
def Mnemonic.Puts {w : Nat} (m : Mnemonic) (a : BitVec w) (k0 : Bool) (v r : BitVec w) : Prop :=
  match m with
  | .TSB => r = v ||| a
  | .TRB => r = v &&& ~~~a
  | _ => ∃ k, m.Shifts k0 v r k

/-- Whether a branch is taken (46 R272 to R280). -/
def Mnemonic.Taken (m : Mnemonic) (p : Byte) : Prop :=
  match m with
  | .BPL => Machine.getFlag p .n = false
  | .BMI => Machine.getFlag p .n = true
  | .BVC => Machine.getFlag p .v = false
  | .BVS => Machine.getFlag p .v = true
  | .BCC => Machine.getFlag p .c = false
  | .BCS => Machine.getFlag p .c = true
  | .BNE => Machine.getFlag p .z = false
  | .BEQ => Machine.getFlag p .z = true
  | .BRA => True
  | _ => False

/-- The register a mnemonic loads, pulls, pushes, stores or compares, of the three width-sensitive ones. -/
def Mnemonic.reg : Mnemonic → Machine.Reg
  | .LDX | .STX | .CPX | .PHX | .PLX | .INX | .DEX | .TAX | .TYX | .TSX => .x
  | .LDY | .STY | .CPY | .PHY | .PLY | .INY | .DEY | .TAY | .TXY => .y
  | _ => .a

/-- The CPU registers. -/
inductive CpuReg where
  | a | x | y | s | d | dbr | pbr | pc | e
  deriving DecidableEq, Repr, Inhabited

/-- The registers an instruction may write, beside P (41 to 47; PC stands past the instruction already). -/
def Mnemonic.writes : Mnemonic → List CpuReg
  | .LDA | .ADC | .SBC | .AND | .ORA | .EOR | .TXA | .TYA | .TSC | .TDC | .XBA => [.a]
  | .ASL | .LSR | .ROL | .ROR | .INC | .DEC => [.a]
  | .LDX | .INX | .DEX | .TAX | .TYX | .TSX => [.x]
  | .LDY | .INY | .DEY | .TAY | .TXY => [.y]
  | .TXS | .TCS | .PHA | .PHX | .PHY | .PHP | .PHB | .PHK | .PHD | .PLP => [.s]
  | .TCD => [.d]
  | .PLA => [.a, .s]
  | .PLX => [.x, .s]
  | .PLY => [.y, .s]
  | .PLB => [.dbr, .s]
  | .PLD => [.d, .s]
  | .BPL | .BMI | .BVC | .BVS | .BCC | .BCS | .BNE | .BEQ | .BRA => [.pc]
  | .JML => [.pbr, .pc]
  | .JSL | .RTL | .RTI => [.pbr, .pc, .s]
  | .XCE => [.e, .s]
  | .STA | .STX | .STY | .STZ | .CMP | .CPX | .CPY | .BIT | .TSB | .TRB => []
  | .CLC | .SEC | .CLI | .SEI | .CLD | .SED | .CLV | .REP | .SEP | .NOP => []

/-- The registers an instruction may write: a shift, increment or decrement with a variant writes none. -/
def Instr.writes (i : Instr) : List CpuReg :=
  if i.mnemonic.isModify && i.variant?.isSome then [] else i.mnemonic.writes

/-- The flags an instruction may write (10 R30, "Flags written" of 41 to 47). -/
def Instr.writesFlags (i : Instr) : List Machine.Flag :=
  match i.mnemonic with
  | .LDA | .LDX | .LDY | .AND | .ORA | .EOR | .INC | .DEC | .INX | .INY | .DEX | .DEY => [.n, .z]
  | .TAX | .TAY | .TXA | .TYA | .TXY | .TYX | .TSX | .TSC | .TCD | .TDC | .XBA => [.n, .z]
  | .PLA | .PLX | .PLY | .PLB | .PLD => [.n, .z]
  | .ADC | .SBC => [.n, .v, .z, .c]
  | .CMP | .CPX | .CPY | .ASL | .LSR | .ROL | .ROR => [.n, .z, .c]
  | .BIT => if i.format = .immM then [.z] else [.n, .v, .z]
  | .TSB | .TRB => [.z]
  | .CLC | .SEC | .XCE => [.c]
  | .CLI | .SEI => [.i]
  | .CLD | .SED => [.d]
  | .CLV => [.v]
  | .REP | .SEP | .PLP | .RTI => [.n, .v, .m, .x, .d, .i, .z, .c]
  | .STA | .STX | .STY | .STZ | .TXS | .TCS | .PHA | .PHX | .PHY | .PHP | .PHB | .PHK | .PHD => []
  | .BPL | .BMI | .BVC | .BVS | .BCC | .BCS | .BNE | .BEQ | .BRA | .JML | .JSL | .RTL | .NOP => []

/-- How many bytes an instruction pushes (45 R245 to R251, 46 R282). -/
def Instr.pushes (i : Instr) (s : Machine.State) : Nat :=
  match i.mnemonic with
  | .PHA => if s.m8 then 1 else 2
  | .PHX | .PHY => if s.x8 then 1 else 2
  | .PHP | .PHB | .PHK => 1
  | .PHD => 2
  | .JSL => 3
  | _ => 0

/-- The 77 illegal opcode bytes, in the order of 30_encoding R101. -/
def illegalOpcodes : List Byte :=
  [0x01, 0x21, 0x41, 0x61, 0x81, 0xA1, 0xC1, 0xE1, 0x03, 0x23, 0x43, 0x63, 0x83, 0xA3, 0xC3, 0xE3]
    ++ [0x07, 0x27, 0x47, 0x67, 0x87, 0xA7, 0xC7, 0xE7, 0x11, 0x31, 0x51, 0x71, 0x91, 0xB1, 0xD1, 0xF1]
    ++ [0x12, 0x32, 0x52, 0x72, 0x92, 0xB2, 0xD2, 0xF2, 0x13, 0x33, 0x53, 0x73, 0x93, 0xB3, 0xD3, 0xF3]
    ++ [0x19, 0x39, 0x59, 0x79, 0x99, 0xB9, 0xD9, 0xF9, 0xBE, 0x96, 0xB6, 0x20, 0x4C, 0x60]
    ++ [0x6C, 0x7C, 0xDC, 0xFC, 0x62, 0x82, 0xD4, 0xF4, 0x44, 0x54, 0xCB, 0xDB, 0x00, 0x02, 0x42]

/-- The length of an instruction by its format and the two widths (30_encoding R98). -/
def Format.bytes (m8 x8 : Bool) : Format → Nat
  | .imp | .acc => 1
  | .imm8 | .dp | .dpx | .ily | .rel => 2
  | .abs | .absx => 3
  | .long | .longx => 4
  | .immM => if m8 then 2 else 3
  | .immX => if x8 then 2 else 3

/-- The width predicate an instruction through a variant works under: `x8` for the index registers, `m8` for
the rest (41 R150, 42 R170, 43 R200). -/
def Mnemonic.narrow (m : Mnemonic) (s : Machine.State) : Bool :=
  match m with
  | .LDX | .LDY | .STX | .STY | .CPX | .CPY => s.x8
  | _ => s.m8

end Sys2Proof

namespace Sys2Proof.Machine

/-! ### The picture processor's loops, as 49_ppu_compositing writes them -/

/-- The position after one dot (R361 step 2). -/
def nextPos (g : Geometry) (p : Nat × Nat) : Nat × Nat := (nextH g p.1, nextV g p.1 p.2)

/-- The position after `k` dots. -/
def posAfter (g : Geometry) : Nat → Nat × Nat → Nat × Nat
  | 0, p => p
  | k + 1, p => nextPos g (posAfter g k p)

/-- The size of a sprite: the row of `OBJ_SIZE_TABLE` for `obj_size_sel`, the column for its size-toggle bit
(R372). -/
def State.SizeIs (s : State) (e : OamEntry) (w h : Nat) : Prop :=
  ∃ row, s.cfg.objSizeTable[s.pic.obj.sizeSel.toNat]? = some row ∧
    (e.size = false → w = row.small.width ∧ h = row.small.height) ∧
    (e.size = true → w = row.large.width ∧ h = row.large.height)

/-- The X of a sprite: exactly -256 is normalised to 0 (R374). -/
def XIs (e : OamEntry) (x : Int) : Prop := (e.x.toInt = -256 ∧ x = 0) ∨ (e.x.toInt ≠ -256 ∧ x = e.x.toInt)

/-- The row of a sprite on a line (R373). -/
def RowIs (e : OamEntry) (line dy : Nat) : Prop := (dy : Int) = ((line : Int) - e.y.toNat) % 256

/-- The descriptor of column `t` of a sprite of width `w` at `x`, on its row `dy` (R375, R376, R377). -/
def State.DescriptorIs (s : State) (e : OamEntry) (x : Int) (dy t : Nat) (d : Tile) : Prop :=
  d.chr = (s.pic.obj.nameBase.toNat * 16384 + (if e.name then (s.pic.obj.nameSelect.toNat + 1) * 8192 else 0)
    + ((e.tile.toNat / 16 + dy / 8) % 16 * 16 + (e.tile.toNat % 16 + t) % 16) * 32) % s.cfg.vramBytes ∧
  d.sx = x + 8 * t ∧ d.ty = dy % 8 ∧ d.prio = e.prio ∧ d.palette = e.palette

/-- A descriptor covers column `x` at priority `p` (R382). -/
def Tile.Covers (d : Tile) (x : Nat) (p : BitVec 2) : Prop :=
  d.prio = p ∧ d.sx ≤ (x : Int) ∧ (x : Int) < d.sx + 8

/-- The index a descriptor decodes to at column `x` it covers (R382). -/
def State.TileIndexIs (s : State) (d : Tile) (x idx : Nat) : Prop :=
  ∃ col : Nat, (x : Int) = d.sx + col ∧ idx = s.decodePixel d.chr 4 d.ty col

/-- The palette base of a layer (R388); layer index `b` is BG`b + 1`. -/
def State.PaletteBaseIs (s : State) (b : Fin 4) (n : Nat) (pal : BitVec 3) (base : Nat) : Prop :=
  (n = 2 ∧ s.pic.bgMode = 0 ∧ base = b.val * 32 + pal.toNat * 4) ∨
  (n = 2 ∧ s.pic.bgMode ≠ 0 ∧ base = pal.toNat * 4) ∨ (n = 4 ∧ base = pal.toNat * 16) ∨ (n = 8 ∧ base = 0)

/-- The selection loop of R371: indices left to look at, the selection, the overflow condition. -/
def State.scan (s : State) (line : Nat) : List (Fin 128) → List (Fin 128) → Bool → List (Fin 128) × Bool
  | [], sel, ovf => (sel, ovf)
  | i :: is, sel, ovf =>
    if s.qualifies line (s.pic.oam.get i) then
      (if sel.length = 32 then (sel, true) else s.scan line is (sel ++ [i]) ovf)
    else s.scan line is sel ovf

/-- The inner emission loop of R376 over the descriptors of one sprite: the list, the overflow condition,
whether emission has stopped. -/
def emitSprite : List Tile → List Tile → Bool → List Tile × Bool × Bool
  | [], out, ovf => (out, ovf, false)
  | d :: ds, out, ovf => if out.length = 34 then (out, true, true) else emitSprite ds (out ++ [d]) ovf

/-- The outer emission loop of R376 over the selected sprites, last selected first. -/
def State.emit (s : State) (line : Nat) : List (Fin 128) → List Tile → Bool → List Tile × Bool
  | [], out, ovf => (out, ovf)
  | i :: is, out, ovf =>
    match emitSprite (s.spriteTiles line i) out ovf with
    | (out, ovf, true) => (out, ovf)
    | (out, ovf, false) => s.emit line is out ovf

/-! ### Invariants -/

/-- What every step keeps, from any state that has it: memory and VRAM in canonical form, the stack page of
emulation mode (10 R23), the bounds of the tile list (10 R47), of the dot counters (10 R45) and of the two
debts (48 R323), the pixels keyed without repeats. -/
structure State.Inv (s : State) : Prop where
  mem      : Memory.wf s.mem
  vram     : 0 < s.cfg.vramBytes → bytesWf s.cfg.vramBytes s.pic.vram
  page     : s.cpu.e = true → hi s.cpu.s = 0x01
  tiles    : s.dots.tiles.length ≤ 34
  dotH     : s.dots.h < s.cfg.geometry.dotsPerLine
  dotV     : s.dots.v < s.cfg.geometry.linesPerFrame
  frame    : s.dots.frame.Pairwise (fun p q => p.1 < q.1)
  ppuDebt  : -(s.cfg.dotMasterCycles : Int) < s.sched.ppuDebt
  apuDebt  : s.sched.apuDebt ≤ (s.cfg.apuDivisor : Int)

/-- What no CPU instruction and no bus access touches: the run status, the parameters, the time base and the
debts, the dot counters, the tile list and the pixels (10 R36, R37, R38, R45, R47, R48). That a device does not
touch them either is the model's choice (log 5). -/
structure SameClock (s t : State) : Prop where
  halt      : t.halt = s.halt
  cfg       : t.cfg = s.cfg
  master    : t.sched.master = s.sched.master
  apuDebt   : t.sched.apuDebt = s.sched.apuDebt
  ppuDebt   : t.sched.ppuDebt = s.sched.ppuDebt
  dotH      : t.dots.h = s.dots.h
  dotV      : t.dots.v = s.dots.v
  tiles     : t.dots.tiles = s.dots.tiles
  tilesLine : t.dots.tilesLine = s.dots.tilesLine
  frame     : t.dots.frame = s.dots.frame

/-- Everything outside the CPU registers and memory is unchanged: what an instruction that reaches no device
leaves. -/
structure SameSurroundings (s t : State) : Prop where
  halt  : t.halt = s.halt
  sched : t.sched = s.sched
  pic   : t.pic = s.pic
  dots  : t.dots = s.dots
  box   : t.box = s.box
  cfg   : t.cfg = s.cfg

end Sys2Proof.Machine
end

