-- ==== Sys2Proof/Certificates/Slice0/Obligations.lean ====
section
/-! DEFINITION. The statements for the provers. Each says in its docstring which rule of the spec it formalises.
Operand accesses are the relations of Safety (EffAddr, LoadsByte, ...), which hold exactly where the bus and the
addressing-mode rules let the access through; `exec i s` runs on the state the fetch left, PC past the
instruction (00_scope R13, log 1). -/

section

open Sys2Proof Sys2Proof.Machine

/-! ### Encoding -/

/-- Words written out from the spec's examples decode to the instructions they stand for (30 R97, 46 R282,
47 R301, R308, 41 R157, 43 R204, 46 R272, 44 R226, 42 R180). -/
def Obligations.SpecWordsDecode : Prop :=
  decode true true [0xA9, 0x00, 0xEA] = .ok (.ldaImm (.imm8 0x00), [0xEA]) ∧
  decode false true [0xA9, 0x00, 0xEA] = .ok (.ldaImm (.imm16 0xEA00), []) ∧
  decode true false [0xA2, 0x03, 0x00] = .ok (.ldxImm (.imm16 0x0003), []) ∧
  decode true true [0x22, 0x34, 0x12, 0x01] = .ok (.jsl 0x01 0x1234, []) ∧
  decode true true [0x18, 0xFB] = .ok (.clc, [0xFB]) ∧
  decode false false [0xC2, 0x30] = .ok (.rep 0x30, []) ∧
  decode true true [0x9E, 0x00, 0x02] = .ok (.stzAbsx 0x0200, []) ∧
  decode true true [0x66, 0x30] = .ok (.rorDp 0x30, []) ∧
  decode true true [0x10, 0x05] = .ok (.bpl 0x05, []) ∧
  decode true true [0x9A] = .ok (.txs, []) ∧
  decode true true [0x24, 0x10] = .ok (.bitDp 0x10, []) ∧
  decode true true [0x48] = .ok (.pha, [])

/-- Decoding the bytes of a well-formed instruction gives it back with the rest of the bytes, with every operand
at every value, under the width predicates it is well-formed for (30 R93, R96, R97). -/
def Obligations.DecodeReadsBackEncode : Prop :=
  ∀ (i : Instr) (m8 x8 : Bool) (rest : List Byte), i.wf m8 x8 = true →
    decode m8 x8 (encode i ++ rest) = .ok (i, rest)

/-- Whatever the decoder reads is the encoding of what it answers, which is well-formed under the width
predicates of the moment: no two byte strings stand for one instruction (30 R90, R97). -/
def Obligations.EncodeReadsBackDecode : Prop :=
  ∀ (m8 x8 : Bool) (bytes : List Byte) (i : Instr) (rest : List Byte),
    decode m8 x8 bytes = .ok (i, rest) → bytes = encode i ++ rest ∧ i.wf m8 x8 = true

/-- Exactly the 77 bytes of R101 have no row in R100, the default of parameter OPTABLE; fetching one as an opcode ends
the run with the byte, its bank and its offset (30 R100, R101, 47 R300 step 3; a byte that another table does not
recognise is in StepRunsTheDecodedInstruction). -/
def Obligations.IllegalOpcodesTrap : Prop :=
  illegalOpcodes.length = 77 ∧ illegalOpcodes.Nodup ∧
  (∀ op : Byte, op ∈ illegalOpcodes ↔ opForm op = none) ∧
  (∀ op : Byte, defaultOpTable.get op.toFin = if op ∈ illegalOpcodes then none else some op) ∧
  (∀ (op : Byte) (m8 x8 : Bool) (rest : List Byte), op ∈ illegalOpcodes →
    decode m8 x8 (op :: rest) = .error (.illegalOpcode op)) ∧
  ∀ (op : Byte) (s t : State), s.Ready → s.cfg.opTable = defaultOpTable → op ∈ illegalOpcodes →
    busLoad s.cpu.pbr s.cpu.pc s.clearDma = .ok (op, t) →
    step s = .fault (.illegalOpcode op s.cpu.pbr s.cpu.pc)

/-- The length of an instruction is that of its format, by the two width predicates; an illegal opcode byte starts
no instruction (30 R98). -/
def Obligations.LengthByFormat : Prop :=
  (∀ (i : Instr) (m8 x8 : Bool), i.wf m8 x8 = true → (encode i).length = i.format.bytes m8 x8) ∧
  (∀ (op : Byte) (f : OpForm) (m8 x8 : Bool), opForm op = some f →
    ∃ i : Instr, i.opcode = op ∧ i.wf m8 x8 = true ∧ 1 + f.operandBytes m8 x8 = (encode i).length) ∧
  ∀ (i : Instr), i.opcode ∉ illegalOpcodes

/-! ### The step -/

/-- A step of a ready machine fetches the bytes at PBR:PC, decodes them and runs the instruction they stand for,
then the rest of the iteration; over plain memory the bytes lie at consecutive offsets of the bank, PC wrapping
inside it, and the fetch changes nothing but PC. The opcode byte is one OPTABLE recognises as the instruction's; under
the default table that is the instruction's own byte, so the bytes are its encoding; a byte OPTABLE recognises as no
row of R100 is an illegal opcode (30 R91, R92, R100, 10 R28, 47 R300, 48 R321; how another table is read is the model's
choice, log 16). -/
def Obligations.StepRunsTheDecodedInstruction : Prop :=
  (∀ (i : Instr) (op : Byte) (s u : State), s.Ready → i.wf s.m8 s.x8 = true →
    s.cfg.opTable.get op.toFin = some i.opcode →
    fetchBytes (encode i).length s.clearDma = .ok (op :: (encode i).tail, u) →
    step s = afterExec op (exec i u)) ∧
  (∀ (i : Instr) (op : Byte) (s : State), s.Ready → i.wf s.m8 s.x8 = true →
    s.cfg.opTable.get op.toFin = some i.opcode →
    (∀ (k : Nat) (v : Byte), (op :: (encode i).tail)[k]? = some v →
      s.PlainRead s.cpu.pbr (s.cpu.pc + BitVec.ofNat 16 k) ∧
      s.byteAt s.cpu.pbr (s.cpu.pc + BitVec.ofNat 16 k) = v) →
    step s = afterExec op
      (exec i (s.clearDma.setPc (s.cpu.pc + BitVec.ofNat 16 (encode i).length)))) ∧
  (∀ i : Instr, defaultOpTable.get i.opcode.toFin = some i.opcode ∧ i.opcode :: (encode i).tail = encode i) ∧
  ∀ (op : Byte) (s t : State), s.Ready → (s.cfg.opTable.get op.toFin).bind opForm = none →
    busLoad s.cpu.pbr s.cpu.pc s.clearDma = .ok (op, t) →
    step s = .fault (.illegalOpcode op s.cpu.pbr s.cpu.pc)

/-- One iteration is one instruction, then its cycles: `master` grows by CYCLES[op] times the ratio plus the DMA
cycles of the instruction, and both debts by the same amount less what the drains took off, a whole number of
audio cycles and a whole number of dots; the dot counters moved by exactly those dots. After it the audio debt is
at most the divisor; the picture debt is at most 0, unless the drain was broken off at a vertical blank, and it
stays above minus the cost of one dot (48 R321, R323, R328, R329, R331, R332, R334, R344, 49 R361). -/
def Obligations.StepAccountsForTime : Prop :=
  ∀ s t : State, step s = .next t →
    (∃ (op : Byte) (i : Instr) (u w : State) (mc n k : Nat),
      fetchInstr s.clearDma = .ok ((op, i), u) ∧ exec i u = .next w ∧
      mc = (s.cfg.cycles.get op.toFin) * s.cfg.cpuMasterRatio + w.sched.dmaCycles ∧
      t.sched.master = s.sched.master + mc ∧
      t.sched.ppuDebt = s.sched.ppuDebt + mc - (n * s.cfg.dotMasterCycles : Nat) ∧
      t.sched.apuDebt = s.sched.apuDebt + mc - (k * s.cfg.apuDivisor : Nat) ∧
      (t.dots.h, t.dots.v) = posAfter s.cfg.geometry n (s.dots.h, s.dots.v)) ∧
    t.sched.apuDebt ≤ s.cfg.apuDivisor ∧
    (t.sched.ppuDebt ≤ 0 ∨ (t.dots.h = 0 ∧ t.dots.v = s.cfg.geometry.vblankLine)) ∧
    (-(s.cfg.dotMasterCycles : Int) < s.sched.ppuDebt → -(s.cfg.dotMasterCycles : Int) < t.sched.ppuDebt)

/-- The audio drain takes no step while the debt does not exceed the divisor; otherwise it steps while it does,
each step taking off a positive number of audio cycles (48 R325, R331); it changes nothing else but the black boxes'
own state. The count of each step is the free value of log 7. -/
def Obligations.AudioDrainStepsWhileAboveTheDivisor : Prop :=
  (∀ s : State, s.sched.apuDebt ≤ s.cfg.apuDivisor → apuDrain s = s) ∧
  ∀ s : State, 0 < s.cfg.apuDivisor → s.sched.apuDebt > s.cfg.apuDivisor →
    ∃ n hidden : Nat, 1 ≤ n ∧
      apuDrain s = apuDrain
        { s with
          sched := { s.sched with apuDebt := s.sched.apuDebt - (n * s.cfg.apuDivisor : Nat) }
          box := { s.box with hidden := hidden } }

/-- The picture drain: nothing while the debt is not positive; else one dot, paid for, and then, at a vertical
blank, the input latch and, only if `nmi_enable` is 1, the pending flag and the interrupt, which ends the drain;
with `nmi_enable` 0 the drain goes on and nothing is remembered. A horizontal blank does nothing (48 R332, R333,
R334, 49 R361). What the input latch leaves in the black boxes is the free value of log 8. -/
def Obligations.PictureDrainDeliversTheInterrupt : Prop :=
  (∀ s : State, s.sched.ppuDebt ≤ 0 → ppuDrain s = .ok s) ∧
  (∀ (s : State) (f : Fault), s.sched.ppuDebt > 0 → ppuAdvance s = .error f → ppuDrain s = .error f) ∧
  ∀ (s u paid : State) (ev : DotEvents) (latched : Box), 0 < s.cfg.dotMasterCycles → s.sched.ppuDebt > 0 →
    ppuAdvance s = .ok (ev, u) →
    paid = { u with sched := { u.sched with ppuDebt := s.sched.ppuDebt - s.cfg.dotMasterCycles } } →
    latched = { hidden := Config.freeInputLatch paid, latches := s.box.latches + 1 } →
    (¬ (u.dots.h = 0 ∧ u.dots.v = s.cfg.geometry.vblankLine) → ppuDrain s = ppuDrain paid) ∧
    (u.dots.h = 0 → u.dots.v = s.cfg.geometry.vblankLine → s.sched.nmiEnable = false →
      ppuDrain s = ppuDrain { paid with box := latched }) ∧
    (u.dots.h = 0 → u.dots.v = s.cfg.geometry.vblankLine → s.sched.nmiEnable = true →
      ppuDrain s = cpuInterrupt { paid with box := latched, sched := { paid.sched with irqPending := true } })

/-- The two unsupported features end the run at the start of an iteration, HDMA before counter matches, and
nothing of the iteration happens (48 R321 step 1, R340). -/
def Obligations.UnsupportedFeaturesTrap : Prop :=
  ∀ s : State, s.halt = none → configOk s.cfg = true →
    (s.sched.hdmaEnable = true → step s = .fault .unsupportedHdma) ∧
    (s.sched.hdmaEnable = false → s.sched.hvIrqEnable = true → step s = .fault .unsupportedCounterIrq)

/-- A run ends in a fatal trap, with its budget spent, or not at all. After a fatal trap no agent steps again: the
run ends there with the reason recorded, and a halted machine answers every step with that reason. A run with a
budget stops after the first iteration that brings `master` to the budget, at least one iteration having run;
without a budget it does not stop this way (60 R420, 10 R36, 48 R322; that a step of a halted machine answers the
recorded reason is the model's choice, log 11). -/
def Obligations.RunsEndByTrapOrBudget : Prop :=
  (∀ (s : State) (f : Fault), s.halt = some f → step s = .fault f) ∧
  (∀ (s : State) (f : Fault) (budget : Option Nat) (n : Nat), step s = .fault f →
    run budget (n + 1) s = .fatal (s.halted f) ∧ step (s.halted f) = .fault f) ∧
  (∀ (s t : State), step s = .next t → s.halt = none ∧ t.halt = none) ∧
  ∀ (s t : State) (n : Nat), step s = .next t →
    (∀ b : Nat, b ≤ t.sched.master → run (some b) (n + 1) s = .budgetExhausted t) ∧
    (∀ b : Nat, t.sched.master < b → run (some b) (n + 1) s = run (some b) n t) ∧
    run none (n + 1) s = run none n t

/-! ### Invariants and reset -/

/-- Every step keeps the invariant, from every state that has it: memory and VRAM canonical, the stack page of
emulation mode (10 R23), the bounds of the tile list (10 R47), the dot counters (10 R45) and the debts (48 R323). -/
def Obligations.EveryStepKeepsInv : Prop :=
  ∀ s t : State, s.Inv → step s = .next t → t.Inv

/-- The state after reset has the invariant and is ready. The parameters and the launch contents of that state are
the model's choice (log 2, log 3, log 9). -/
def Obligations.ResetHasInv : Prop := State.reset.Inv ∧ State.reset.Ready

/-- No step changes a parameter (00 R7, 10 R37) or, with no device on the bus, anything the pipeline only reads
(10 R39). -/
def Obligations.StepsKeepParametersAndPicture : Prop :=
  ∀ s t : State, step s = .next t → t.cfg = s.cfg ∧ (s.NoDevices → t.pic = s.pic)

/-- Construction: every field has the value of R50, PC is the word at 00:FFFC, low byte read first; a fault on
either read ends the run before any instruction; over plain memory the reads change nothing (10 R50, 70 R470,
R471). -/
def Obligations.ConstructionReadsTheResetVector : Prop :=
  (∀ (l : Launch) (s t : State) (lb hb : Byte), busLoad 0x00 0xFFFC l.state = .ok (lb, s) →
    busLoad 0x00 0xFFFD s = .ok (hb, t) →
    ∃ r : State, construct l = .ok r ∧ r.cpu.pc.toNat = hb.toNat * 256 + lb.toNat ∧
      r.cpu.a = 0x0000 ∧ r.cpu.x = 0x0000 ∧ r.cpu.y = 0x0000 ∧ r.cpu.s = 0x01FF ∧ r.cpu.d = 0x0000 ∧
      r.cpu.dbr = 0x00 ∧ r.cpu.pbr = 0x00 ∧ r.cpu.p = 0x34 ∧ r.cpu.e = true ∧ r.halt = none ∧
      r.sched.master = 0 ∧ r.sched.apuDebt = 0 ∧ r.sched.ppuDebt = 0 ∧ r.sched.dmaCycles = 0 ∧
      r.dots.h = 0 ∧ r.dots.v = 0 ∧ r.dots.tiles = [] ∧ r.dots.tilesLine = none ∧
      r.mem = t.mem ∧ r.cfg = l.cfg) ∧
  (∀ (l : Launch), l.state.PlainRead 0x00 0xFFFC → l.state.PlainRead 0x00 0xFFFD →
    ∃ r : State, construct l = .ok r ∧ r.sched = Sched.reset ∧ r.dots = Dots.reset ∧ r.pic = l.pic ∧ r.mem = l.mem ∧
      r.cpu.pc.toNat = (l.state.byteAt 0x00 0xFFFD).toNat * 256 + (l.state.byteAt 0x00 0xFFFC).toNat) ∧
  ∀ (l : Launch) (f : Fault),
    (busLoad 0x00 0xFFFC l.state = .error f → construct l = .error f) ∧
    ∀ (lb : Byte) (s : State), busLoad 0x00 0xFFFC l.state = .ok (lb, s) →
      busLoad 0x00 0xFFFD s = .error f → construct l = .error f

/-! ### The bus -/

/-- What a load and a store do, by the window that answers: nothing answers, BusUnmapped; not readable or not
writable, BusAccessViolation; memory, the byte, nothing else changed; a device, the trap it raises, else a free
value or effect, the CPU registers and the clock unchanged (20 R60, R61, R62, R68, 48 R340; the windows are the
model's reading of parameter BUS, log 4; what a device may do is the free value of log 5, that it leaves the CPU
registers and the clock alone is log 5's choice; the registers of log 23 never trap). -/
def Obligations.BusAnswersByWindow : Prop :=
  ∀ (s : State) (b : Byte) (o : Word) (v : Byte) (a : DeviceAnswer) (r : DeviceReaction),
    a = Config.freeDeviceLoad s (s.busAddr b o) → r = Config.freeDeviceStore s (s.busAddr b o) v →
    (s.window b o = none →
      busLoad b o s = .error (.busUnmapped b o) ∧ busStore b o v s = .error (.busUnmapped b o)) ∧
    ∀ w : Window, s.window b o = some w →
      (w.readable = false → busLoad b o s = .error (.busAccessViolation b o .read)) ∧
      (w.writable = false → busStore b o v s = .error (.busAccessViolation b o .write)) ∧
      (w.readable = true → w.kind = .memory → busLoad b o s = .ok (s.byteAt b o, s)) ∧
      (w.writable = true → w.kind = .memory → busStore b o v s = .ok (s.storeByte b o v)) ∧
      (w.readable = true → w.kind ≠ .memory → w.kind ≠ .device →
        ∃ t, busLoad b o s = .ok (a.value, t) ∧ t.cpu = s.cpu ∧ SameClock s t) ∧
      (w.readable = true → w.kind = .device → ∃ t, t.cpu = s.cpu ∧ SameClock s t ∧
        busLoad b o s = match a.trap with
          | none => .ok (a.value, t)
          | some .unmapped => .error (.busUnmapped b o)
          | some .violation => .error (.busAccessViolation b o .read)) ∧
      (w.writable = true → w.kind = .device → ∃ t, t.cpu = s.cpu ∧ SameClock s t ∧
        busStore b o v s = match r.trap with
          | none => .ok t
          | some (.bus .unmapped) => .error (.busUnmapped b o)
          | some (.bus .violation) => .error (.busAccessViolation b o .write)
          | some .hdma => .error .unsupportedHdma
          | some .counterIrq => .error .unsupportedCounterIrq)

/-- RAM returns what was stored, byte and word, the low byte of a word at the lower offset; every byte apart from
the ones stored reads as before (20 R65, R67, R69). -/
def Obligations.RamReturnsWhatWasStored : Prop :=
  ∀ (s : State) (b : Byte) (o : Word), Memory.wf s.mem → s.Ram b o →
    (∀ v : Byte, ∃ t, busStore b o v s = .ok t ∧ Memory.wf t.mem ∧ busLoad b o t = .ok (v, t) ∧
      ∀ b' o', s.Apart b' o' b o → t.byteAt b' o' = s.byteAt b' o') ∧
    ∀ v : Word, s.Ram b (o + 1) → s.Apart b o b (o + 1) →
      ∃ t, PutsWord b o v s t ∧ Memory.wf t.mem ∧ busLoadWord b o t = .ok (v, t) ∧
        (t.byteAt b o).toNat = v.toNat % 256 ∧ (t.byteAt b (o + 1)).toNat = v.toNat / 256 ∧
        ∀ b' o', s.Apart b' o' b o → s.Apart b' o' b (o + 1) → t.byteAt b' o' = s.byteAt b' o'

/-- The mirroring, where the bus has it and working RAM starts at bus address r: offsets 0x0000 to 0x1FFF of banks
0x00 to 0x3F and 0x80 to 0xBF name the first 8192 bytes of working RAM, the ones at r and up, through one window; where
r is the start of a bank outside those ranges, its own offsets name the same bytes. On a map whose windows overlay
nothing, every other address names the byte of its 24-bit number (20 R63, R64; where working RAM lies and which
windows overlay which are parameter BUS, log 4). -/
def Obligations.FirstEightKilobytesAreMirrored : Prop :=
  ∀ s : State,
    (∀ (r : Nat) (b : Byte) (o : Word), s.cfg.bus.mirror = some r → o.toNat < 0x2000 →
      (b.toNat ≤ 0x3F ∨ (0x80 ≤ b.toNat ∧ b.toNat ≤ 0xBF)) →
      s.window b o = windowAt s.cfg.bus (r + o.toNat) ∧
      (∀ b' : Byte, (b'.toNat ≤ 0x3F ∨ (0x80 ≤ b'.toNat ∧ b'.toNat ≤ 0xBF)) →
        s.window b' o = s.window b o ∧ s.busAddr b' o = s.busAddr b o ∧ s.byteAt b' o = s.byteAt b o) ∧
      (∀ k : Byte, r = k.toNat * 65536 → ((0x40 ≤ k.toNat ∧ k.toNat ≤ 0x7F) ∨ 0xC0 ≤ k.toNat) →
        s.window k o = s.window b o ∧ s.busAddr k o = s.busAddr b o ∧ s.byteAt k o = s.byteAt b o) ∧
      ((∀ w ∈ s.cfg.bus.windows, w.backing = w.base) → s.busAddr b o = (r + o.toNat) % 16777216)) ∧
    ∀ (b : Byte) (o : Word), (∀ w ∈ s.cfg.bus.windows, w.backing = w.base) →
      (s.cfg.bus.mirror = none ∨ 0x2000 ≤ o.toNat ∨ (0x40 ≤ b.toNat ∧ b.toNat ≤ 0x7F) ∨ 0xC0 ≤ b.toNat) →
      s.busAddr b o = b.toNat * 65536 + o.toNat

/-- The two stores with a side effect the CORE fixes. A store to the DMA-enable register runs the DMA collaborator
with the stored byte as the mask before it returns: its accesses in order, then its cycles added to `dma_cycles`; a
trap of one of its accesses is the store's.
A store to a register that holds enable bits writes the flags whose bit it holds and no other state (10 R20, 20 R68,
R75, 48 R329, R339, R340, R341; what the collaborator does is the free value of log 6, which bits a register holds is
the model's, log 23). That a device which an access of the run reaches leaves the CPU registers and the clock, dots and
tiles alone (`t.cpu = s.cpu`, `SameClock`) is the choice of the model (DESIGN CHOICE, log 5). -/
def Obligations.ControlRegistersActInsideTheStore : Prop :=
  (∀ (s u : State) (b : Byte) (o : Word) (v : Byte) (w : Window) (r : DmaAnswer),
    s.window b o = some w → w.kind = .dmaEnable → w.writable = true → r = Config.freeDma s v →
    (busStore b o v s = match dmaAccesses r.accesses { s with box := { s.box with hidden := r.hidden } } with
      | .error f => .error f
      | .ok u => .ok { u with sched := { u.sched with dmaCycles := u.sched.dmaCycles + r.cycles } }) ∧
    (dmaAccesses r.accesses { s with box := { s.box with hidden := r.hidden } } = .ok u →
      ∃ t, busStore b o v s = .ok t ∧ t.cpu = s.cpu ∧ t.mem = u.mem ∧ t.pic = u.pic ∧
        t.sched = { u.sched with dmaCycles := u.sched.dmaCycles + r.cycles } ∧ SameClock s t)) ∧
  ∀ (s : State) (b : Byte) (o : Word) (v : Byte) (w : Window) (nmi hv hdma : Byte),
    s.window b o = some w → w.writable = true → w.kind = .enables nmi hv hdma →
    ∃ t, busStore b o v s = .ok t ∧
      t = { s with sched := { s.sched with
              nmiEnable := t.sched.nmiEnable, hvIrqEnable := t.sched.hvIrqEnable
              hdmaEnable := t.sched.hdmaEnable } } ∧
      (nmi = 0 → t.sched.nmiEnable = s.sched.nmiEnable) ∧
      (nmi ≠ 0 → (t.sched.nmiEnable = true ↔ v &&& nmi ≠ 0)) ∧
      (hv = 0 → t.sched.hvIrqEnable = s.sched.hvIrqEnable) ∧
      (hv ≠ 0 → (t.sched.hvIrqEnable = true ↔ v &&& hv ≠ 0)) ∧
      (hdma = 0 → t.sched.hdmaEnable = s.sched.hdmaEnable) ∧
      (hdma ≠ 0 → (t.sched.hdmaEnable = true ↔ v &&& hdma ≠ 0))

/-! ### Operands -/

/-- `address(am)` is the effective address of R122 to R129 wherever there is one, and otherwise the trap its rule
names: an immediate, an index past offset 0xFFFF, a sum past 24 bits, a pointer past 0xFFFD, or the bus's own
trap on a pointer byte. -/
def Obligations.AddressesOrTraps : Prop :=
  ∀ (s : State),
    (∀ am b o t, EffAddr am s b o t → address am s = .ok ((b, o), t)) ∧
    (∀ v : Byte, address (.imm8 v) s = .error (.addressOfImmediate (.imm8 v))) ∧
    (∀ v : Word, address (.imm16 v) s = .error (.addressOfImmediate (.imm16 v))) ∧
    (∀ a : Word, a.toNat + s.xi.toNat > 0xFFFF →
      address (.absX a) s = .error (.indexOverflow16 s.cpu.dbr a s.xi)) ∧
    (∀ (k : Byte) (a : Word), k.toNat * 65536 + a.toNat + s.xi.toNat ≥ 0x1000000 →
      address (.absLongX k a) s = .error (.addressOverflow24 k a s.xi)) ∧
    ∀ (d : Byte) (p : Word), p.toNat = (s.cpu.d.toNat + d.toNat) % 65536 →
      (p.toNat > 0xFFFD → address (.indLongY d) s = .error (.pointerCrossesBank p)) ∧
      (p.toNat ≤ 0xFFFD →
        (∀ f, busLoad 0x00 p s = .error f → address (.indLongY d) s = .error f) ∧
        ∀ l s1, busLoad 0x00 p s = .ok (l, s1) →
          (∀ f, busLoad 0x00 (p + 1) s1 = .error f → address (.indLongY d) s = .error f) ∧
          ∀ m s2, busLoad 0x00 (p + 1) s1 = .ok (m, s2) →
            (∀ f, busLoad 0x00 (p + 2) s2 = .error f → address (.indLongY d) s = .error f) ∧
            ∀ h s3, busLoad 0x00 (p + 2) s2 = .ok (h, s3) →
              h.toNat * 65536 + m.toNat * 256 + l.toNat + s.yi.toNat ≥ 0x1000000 →
              address (.indLongY d) s = .error (.addressOverflow24 h (word m l) s.yi))

/-- The traps of the accessors: an immediate of the other width, a store to an immediate, a word access at offset
0xFFFF before the bus is touched, and the traps of the address and of the bytes, low address first (40 R132 to
R135, 20 R66, 60 R423). -/
def Obligations.AccessorTraps : Prop :=
  ∀ (s : State),
    (∀ v : Word, loadb (.imm16 v) s = .error (.immediateWidthMismatch (.imm16 v))) ∧
    (∀ v : Byte, loadw (.imm8 v) s = .error (.immediateWidthMismatch (.imm8 v))) ∧
    (∀ (k v : Byte) (w : Word), storeb (.imm8 k) v s = .error (.storeToImmediate (.imm8 k)) ∧
      storew (.imm8 k) w s = .error (.storeToImmediate (.imm8 k))) ∧
    (∀ (k w : Word) (v : Byte), storeb (.imm16 k) v s = .error (.storeToImmediate (.imm16 k)) ∧
      storew (.imm16 k) w s = .error (.storeToImmediate (.imm16 k))) ∧
    (∀ am b u (w : Word), EffAddr am s b 0xFFFF u →
      loadw am s = .error (.wordCrossesBank b 0xFFFF) ∧ storew am w s = .error (.wordCrossesBank b 0xFFFF)) ∧
    (∀ am f, address am s = .error f → (∀ v, am ≠ .imm8 v ∧ ∀ w, am ≠ .imm16 w) →
      loadb am s = .error f ∧ loadw am s = .error f ∧ (∀ v, storeb am v s = .error f) ∧
        ∀ w, storew am w s = .error f) ∧
    (∀ am b o u f, EffAddr am s b o u → busLoad b o u = .error f →
      loadb am s = .error f ∧ (o ≠ 0xFFFF → loadw am s = .error f)) ∧
    (∀ am b o u f l t, EffAddr am s b o u → o ≠ 0xFFFF → busLoad b o u = .ok (l, t) →
      busLoad b (o + 1) t = .error f → loadw am s = .error f) ∧
    (∀ am b o u f v, EffAddr am s b o u → busStore b o v u = .error f → storeb am v s = .error f) ∧
    (∀ am b o u f (v : Word), EffAddr am s b o u → o ≠ 0xFFFF →
      busStore b o (v.setWidth 8) u = .error f → storew am v s = .error f) ∧
    ∀ am b o u f (v : Word) t, EffAddr am s b o u → o ≠ 0xFFFF → busStore b o (v.setWidth 8) u = .ok t →
      busStore b (o + 1) ((v >>> 8).setWidth 8) t = .error f → storew am v s = .error f

/-- A well-formed instruction never raises one of the three usage traps: no store, read-modify-write or transfer
of control has an immediate form, and every immediate has the width its instruction asks for (40 R137). -/
def Obligations.UsageTrapsAreUnreachable : Prop :=
  ∀ (i : Instr) (s : State) (am : Variant), i.wf s.m8 s.x8 = true →
    exec i s ≠ .fault (.addressOfImmediate am) ∧ exec i s ≠ .fault (.immediateWidthMismatch am) ∧
    exec i s ≠ .fault (.storeToImmediate am)

/-- An instruction whose operand access traps answers that trap, whatever its family: the read instructions the
trap of `loadb` or `loadw` at their width (ADC and SBC with P.d = 0), the stores that of `storeb` or `storew`, the
read-modify-write instructions that of `address`, then WordCrossesBank, then the reads, then the writes of the value
they compute, low address first. An instruction that pushes or pops answers the trap of its first push or pop that
traps, in the order of its rule (41 R150, 42 R170, 43 R200, 45 R245 to R257, 46 R282, R283, 47 R312, 60 R423). -/
def Obligations.OperandTrapsStopTheInstruction : Prop :=
  (∀ (i : Instr) (am : Variant) (s : State) (f : Fault), i.variant? = some am →
    (i.mnemonic.isRead = true → (i.mnemonic = .ADC ∨ i.mnemonic = .SBC → getFlag s.cpu.p .d = false) →
      (i.mnemonic.narrow s = true → loadb am s = .error f → exec i s = .fault f) ∧
      (i.mnemonic.narrow s = false → loadw am s = .error f → exec i s = .fault f)) ∧
    (i.mnemonic.isStore = true →
      (i.mnemonic.narrow s = true →
        storeb am (if i.mnemonic = .STZ then 0x00 else lo (s.reg i.mnemonic.reg)) s = .error f →
        exec i s = .fault f) ∧
      (i.mnemonic.narrow s = false →
        storew am (if i.mnemonic = .STZ then 0x0000 else s.reg i.mnemonic.reg) s = .error f →
        exec i s = .fault f)) ∧
    (i.mnemonic.isModify = true →
      (address am s = .error f → exec i s = .fault f) ∧
      (∀ b u, s.m8 = false → EffAddr am s b 0xFFFF u → exec i s = .fault (.wordCrossesBank b 0xFFFF)) ∧
      (∀ b o u, (s.m8 = true ∨ o ≠ 0xFFFF) → EffAddr am s b o u → busLoad b o u = .error f →
        exec i s = .fault f) ∧
      (∀ b o u l x, s.m8 = false → o ≠ 0xFFFF → EffAddr am s b o u → busLoad b o u = .ok (l, x) →
        busLoad b (o + 1) x = .error f → exec i s = .fault f) ∧
      (∀ b o u (v r : Byte) x, s.m8 = true → EffAddr am s b o u → busLoad b o u = .ok (v, x) →
        i.mnemonic.Puts (lo s.cpu.a) (getFlag s.cpu.p .c) v r → busStore b o r x = .error f →
        exec i s = .fault f) ∧
      ∀ b o u (v r : Word) x, s.m8 = false → o ≠ 0xFFFF → EffAddr am s b o u → busLoadWord b o u = .ok (v, x) →
        i.mnemonic.Puts s.cpu.a (getFlag s.cpu.p .c) v r →
        (busStore b o (r.setWidth 8) x = .error f → exec i s = .fault f) ∧
        ∀ y, busStore b o (r.setWidth 8) x = .ok y → busStore b (o + 1) ((r >>> 8).setWidth 8) y = .error f →
          exec i s = .fault f)) ∧
  ∀ (s t u : State) (f : Fault),
    (∀ (i : Instr) (v : Byte), (i = .pha ∧ s.m8 = true ∧ v = lo s.cpu.a ∨ i = .phx ∧ s.x8 = true ∧ v = lo s.cpu.x ∨
        i = .phy ∧ s.x8 = true ∧ v = lo s.cpu.y ∨ i = .php ∧ v = s.cpu.p ∨ i = .phb ∧ v = s.cpu.dbr ∨
        i = .phk ∧ v = s.cpu.pbr) →
      pushb v s = .error f → exec i s = .fault f) ∧
    (∀ (i : Instr) (v : Word), (i = .pha ∧ s.m8 = false ∧ v = s.cpu.a ∨ i = .phx ∧ s.x8 = false ∧ v = s.cpu.x ∨
        i = .phy ∧ s.x8 = false ∧ v = s.cpu.y ∨ i = .phd ∧ v = s.cpu.d) →
      pushw v s = .error f → exec i s = .fault f) ∧
    (∀ i : Instr, (i = .pla ∧ s.m8 = true ∨ i = .plx ∧ s.x8 = true ∨ i = .ply ∧ s.x8 = true ∨ i = .plp ∨
        i = .plb ∨ i = .rti) → popb s = .error f → exec i s = .fault f) ∧
    (∀ i : Instr, (i = .pla ∧ s.m8 = false ∨ i = .plx ∧ s.x8 = false ∨ i = .ply ∧ s.x8 = false ∨ i = .pld) →
      popw s = .error f → exec i s = .fault f) ∧
    (∀ (b : Byte) (a ra : Word), ra.toNat = (s.cpu.pc.toNat + 65535) % 65536 →
      (s.cfg.callStackOrder = .pbrOnTop →
        (pushw ra s = .error f → exec (.jsl b a) s = .fault f) ∧
        (pushw ra s = .ok t → pushb s.cpu.pbr t = .error f → exec (.jsl b a) s = .fault f)) ∧
      (s.cfg.callStackOrder = .pbrDeepest →
        (pushb s.cpu.pbr s = .error f → exec (.jsl b a) s = .fault f) ∧
        (pushb s.cpu.pbr s = .ok t → pushw ra t = .error f → exec (.jsl b a) s = .fault f))) ∧
    (s.cfg.callStackOrder = .pbrOnTop →
      (popb s = .error f → exec .rtl s = .fault f) ∧
      ∀ k, popb s = .ok (k, t) → popw t = .error f → exec .rtl s = .fault f) ∧
    (s.cfg.callStackOrder = .pbrDeepest →
      (popw s = .error f → exec .rtl s = .fault f) ∧
      ∀ k, popw s = .ok (k, t) → popb t = .error f → exec .rtl s = .fault f) ∧
    ∀ (p : Byte) (pc : Word), popb s = .ok (p, t) →
      (popw (t.setP p) = .error f → exec .rti s = .fault f) ∧
      (popw (t.setP p) = .ok (pc, u) → s.cpu.e = false → popb (u.setPc pc) = .error f → exec .rti s = .fault f)

/-- Every instruction completes on RAM: where every address is RAM (the flat 16 MiB bus of D41), a well-formed
instruction answers a next state, unless it is one of the forms the spec traps: ADC or SBC with P.d = 1, REP or SEP
with E = 1, an operand that has no effective address, or a word operand at offset 0xFFFF (40 R122 to R137, 60 R421,
R422, R425). -/
def Obligations.EveryInstructionCompletesOnRam : Prop :=
  ∀ (i : Instr) (s : State), i.wf s.m8 s.x8 = true → (∀ b o, s.Ram b o) →
    (i.mnemonic = .ADC ∨ i.mnemonic = .SBC → getFlag s.cpu.p .d = false) →
    (i.mnemonic = .REP ∨ i.mnemonic = .SEP → s.cpu.e = false) →
    ((i.mnemonic.isRead = true ∨ i.mnemonic.isStore = true ∨ i.mnemonic.isModify = true) →
      ∀ am, i.variant? = some am → (∀ v, am ≠ .imm8 v) → (∀ v, am ≠ .imm16 v) →
        ∃ b o, EffAddr am s b o s ∧ (i.mnemonic.narrow s = false → o ≠ 0xFFFF)) →
    ∃ t, exec i s = .next t

/-! ### Loads and stores -/

/-- LDA, LDX, LDY run wherever their operand can be read: the value goes to the register at its width, the high
byte kept in 8-bit sub-mode; N and Z from it, no other flag; nothing else but what the read itself does changes
(41 R150 to R153, 00 R12, 10 R21, R22). -/
def Obligations.LoadsRun : Prop :=
  ∀ (i : Instr) (am : Variant) (s t : State) (r : Reg),
    (i.mnemonic = .LDA ∧ r = .a ∨ i.mnemonic = .LDX ∧ r = .x ∨ i.mnemonic = .LDY ∧ r = .y) →
    i.variant? = some am →
    (s.narrow r = true → ∀ v : Byte, LoadsByte am s v t →
      ∃ q, NzBecome s.cpu.p q v ∧ exec i s = .next ((t.setRegLo r v).setP q)) ∧
    (s.narrow r = false → ∀ v : Word, LoadsWord am s v t →
      ∃ q, NzBecome s.cpu.p q v ∧ exec i s = .next ((t.setReg r v).setP q))

/-- STA, STX, STY, STZ run wherever their operand can be written: they store the register, or zero, at its width
and change nothing else (41 R150, R154 to R157). -/
def Obligations.StoresRun : Prop :=
  ∀ (i : Instr) (am : Variant) (s t : State) (w : Bool) (v : Word),
    (i.mnemonic = .STA ∧ w = s.m8 ∧ v = s.cpu.a ∨ i.mnemonic = .STX ∧ w = s.x8 ∧ v = s.cpu.x ∨
      i.mnemonic = .STY ∧ w = s.x8 ∧ v = s.cpu.y ∨ i.mnemonic = .STZ ∧ w = s.m8 ∧ v = 0x0000) →
    i.variant? = some am →
    (w = true → StoresByte am (v.setWidth 8) s t → exec i s = .next t) ∧
    (w = false → StoresWord am v s t → exec i s = .next t)

/-! ### Arithmetic and logic -/

/-- ADC and SBC in binary: the sum with the carry as a natural number, SBC with the operand complemented; C is the
carry out, V the signed overflow, N and Z from the result; no other flag, no other register (42 R170, R172,
R173). The trap with P.d = 1 is DecimalArithmeticTraps. -/
def Obligations.AdditionsRun : Prop :=
  ∀ (i : Instr) (am : Variant) (s t : State) (sub : Bool), i.mnemonic = (if sub then .SBC else .ADC) →
    i.variant? = some am → getFlag s.cpu.p .d = false →
    (s.m8 = true → ∀ v w r : Byte, LoadsByte am s v t → w = (if sub then ~~~v else v) →
      r.toNat = ((lo s.cpu.a).toNat + w.toNat + (getFlag s.cpu.p .c).toNat) % 256 →
      ∃ q, FlagsBecome s.cpu.p q (some r.msb)
          (some (decide ((lo s.cpu.a).toInt + w.toInt + (getFlag s.cpu.p .c).toNat ≠ r.toInt)))
          (some (decide (r.toNat = 0)))
          (some (decide (255 < (lo s.cpu.a).toNat + w.toNat + (getFlag s.cpu.p .c).toNat))) ∧
        exec i s = .next ((t.setRegLo .a r).setP q)) ∧
    (s.m8 = false → ∀ v w r : Word, LoadsWord am s v t → w = (if sub then ~~~v else v) →
      r.toNat = (s.cpu.a.toNat + w.toNat + (getFlag s.cpu.p .c).toNat) % 65536 →
      ∃ q, FlagsBecome s.cpu.p q (some r.msb)
          (some (decide (s.cpu.a.toInt + w.toInt + (getFlag s.cpu.p .c).toNat ≠ r.toInt)))
          (some (decide (r.toNat = 0)))
          (some (decide (65535 < s.cpu.a.toNat + w.toNat + (getFlag s.cpu.p .c).toNat))) ∧
        exec i s = .next ((t.setReg .a r).setP q))

/-- ADC and SBC with P.d = 1 trap before any operand access, in every form, recording the opcode byte and the bank
and offset of the opcode (42 R171, 60 R421 code 14, R423; the two rules name different parts of the info, log
12). -/
def Obligations.DecimalArithmeticTraps : Prop :=
  ∀ (i : Instr) (s : State), (i.mnemonic = .ADC ∨ i.mnemonic = .SBC) → getFlag s.cpu.p .d = true →
    exec i s = .fault (.decimalArithmetic i.opcode s.cpu.pbr
      (s.cpu.pc - BitVec.ofNat 16 (encode i).length))

/-- AND, ORA, EOR: the result to the accumulator at its width, N and Z from it, no other flag (42 R170, R174 to
R176). -/
def Obligations.LogicRuns : Prop :=
  ∀ (i : Instr) (am : Variant) (s t : State) (f : (w : Nat) → BitVec w → BitVec w → BitVec w),
    i.mnemonic.logic = some f → i.variant? = some am →
    (s.m8 = true → ∀ v : Byte, LoadsByte am s v t →
      ∃ q, NzBecome s.cpu.p q (f 8 (lo s.cpu.a) v) ∧
        exec i s = .next ((t.setRegLo .a (f 8 (lo s.cpu.a) v)).setP q)) ∧
    (s.m8 = false → ∀ v : Word, LoadsWord am s v t →
      ∃ q, NzBecome s.cpu.p q (f 16 s.cpu.a v) ∧ exec i s = .next ((t.setReg .a (f 16 s.cpu.a v)).setP q))

/-- CMP, CPX, CPY: C from the unsigned comparison, Z from equality, N from the wrapped difference; V and D kept,
no register written, whatever P.d says (42 R177 to R179). -/
def Obligations.ComparesRun : Prop :=
  ∀ (i : Instr) (am : Variant) (s t : State) (r : Reg),
    (i.mnemonic = .CMP ∧ r = .a ∨ i.mnemonic = .CPX ∧ r = .x ∨ i.mnemonic = .CPY ∧ r = .y) →
    i.variant? = some am →
    (s.narrow r = true → ∀ v : Byte, LoadsByte am s v t →
      ∃ q, FlagsBecome s.cpu.p q
          (some (decide (128 ≤ ((lo (s.reg r)).toNat + 256 - v.toNat) % 256))) none
          (some (decide (lo (s.reg r) = v))) (some (decide (v.toNat ≤ (lo (s.reg r)).toNat))) ∧
        exec i s = .next (t.setP q)) ∧
    (s.narrow r = false → ∀ v : Word, LoadsWord am s v t →
      ∃ q, FlagsBecome s.cpu.p q
          (some (decide (32768 ≤ ((s.reg r).toNat + 65536 - v.toNat) % 65536))) none
          (some (decide (s.reg r = v))) (some (decide (v.toNat ≤ (s.reg r).toNat))) ∧
        exec i s = .next (t.setP q))

/-- BIT: Z from the and; in the memory forms N and V are the two top bits of the operand, in the immediate form they
are kept; no register written (42 R180). -/
def Obligations.BitTestsRun : Prop :=
  ∀ (i : Instr) (am : Variant) (s t : State) (imm : Bool), i.mnemonic = .BIT → i.variant? = some am →
    (imm = true ↔ i.format = .immM) →
    (s.m8 = true → ∀ v : Byte, LoadsByte am s v t →
      ∃ q, FlagsBecome s.cpu.p q (if imm then none else some (v.getLsbD 7))
          (if imm then none else some (v.getLsbD 6)) (some (decide (lo s.cpu.a &&& v = 0))) none ∧
        exec i s = .next (t.setP q)) ∧
    (s.m8 = false → ∀ v : Word, LoadsWord am s v t →
      ∃ q, FlagsBecome s.cpu.p q (if imm then none else some (v.getLsbD 15))
          (if imm then none else some (v.getLsbD 14)) (some (decide (s.cpu.a &&& v = 0))) none ∧
        exec i s = .next (t.setP q))

/-- TSB and TRB: the accumulator's bits set or cleared in memory by one read-modify-write, Z from the and with the
value read, no other flag, no register (42 R181, R182, 43 R200). -/
def Obligations.TestAndSetBitsRun : Prop :=
  ∀ (i : Instr) (am : Variant) (s w t : State) (clear : Bool), i.mnemonic = (if clear then .TRB else .TSB) →
    i.variant? = some am →
    (s.m8 = true → ∀ v : Byte,
      ModifiesByte am s v (if clear then v &&& ~~~(lo s.cpu.a) else v ||| lo s.cpu.a) w t →
      ∃ q, FlagsBecome s.cpu.p q none none (some (decide (lo s.cpu.a &&& v = 0))) none ∧
        exec i s = .next (t.setP q)) ∧
    (s.m8 = false → ∀ v : Word,
      ModifiesWord am s v (if clear then v &&& ~~~s.cpu.a else v ||| s.cpu.a) w t →
      ∃ q, FlagsBecome s.cpu.p q none none (some (decide (s.cpu.a &&& v = 0))) none ∧
        exec i s = .next (t.setP q))

/-! ### Shifts, increments, decrements -/

/-- ASL, LSR, ROL, ROR, INC, DEC on memory: one read-modify-write at the width of `m8` with the result over natural
numbers; N and Z from it, C the bit shifted out, kept by INC and DEC; V kept, no register (43 R200 to R206). -/
def Obligations.MemoryShiftsRun : Prop :=
  ∀ (i : Instr) (am : Variant) (s w t : State) (k : Option Bool), i.variant? = some am →
    (s.m8 = true → ∀ v r : Byte, i.mnemonic.Shifts (getFlag s.cpu.p .c) v r k → ModifiesByte am s v r w t →
      ∃ q, FlagsBecome s.cpu.p q (some r.msb) none (some (decide (r.toNat = 0))) k ∧
        exec i s = .next (t.setP q)) ∧
    (s.m8 = false → ∀ v r : Word, i.mnemonic.Shifts (getFlag s.cpu.p .c) v r k → ModifiesWord am s v r w t →
      ∃ q, FlagsBecome s.cpu.p q (some r.msb) none (some (decide (r.toNat = 0))) k ∧
        exec i s = .next (t.setP q))

/-- The same six on the accumulator: the low byte alone in 8-bit sub-mode, no memory access (43 R200, format
ACC). -/
def Obligations.AccumulatorShiftsRun : Prop :=
  ∀ (i : Instr) (s : State) (k : Option Bool), i.format = .acc →
    (s.m8 = true → ∀ r : Byte, i.mnemonic.Shifts (getFlag s.cpu.p .c) (lo s.cpu.a) r k →
      ∃ q, FlagsBecome s.cpu.p q (some r.msb) none (some (decide (r.toNat = 0))) k ∧
        exec i s = .next ((s.setRegLo .a r).setP q)) ∧
    (s.m8 = false → ∀ r : Word, i.mnemonic.Shifts (getFlag s.cpu.p .c) s.cpu.a r k →
      ∃ q, FlagsBecome s.cpu.p q (some r.msb) none (some (decide (r.toNat = 0))) k ∧
        exec i s = .next ((s.setReg .a r).setP q))

/-- INX, INY, DEX, DEY: one up or down at the width of `x8`, wrapping, the hidden high byte kept; N and Z only (43
R207 to R210). -/
def Obligations.IndexStepsRun : Prop :=
  ∀ (i : Instr) (s : State) (r : Reg) (n : Nat),
    (i = .inx ∧ r = .x ∧ n = 1 ∨ i = .iny ∧ r = .y ∧ n = 1 ∨ i = .dex ∧ r = .x ∧ n = 65535 ∨
      i = .dey ∧ r = .y ∧ n = 65535) →
    (s.x8 = true → ∀ v : Byte, v.toNat = ((lo (s.reg r)).toNat + n) % 256 →
      ∃ q, NzBecome s.cpu.p q v ∧ exec i s = .next ((s.setRegLo r v).setP q)) ∧
    (s.x8 = false → ∀ v : Word, v.toNat = ((s.reg r).toNat + n) % 65536 →
      ∃ q, NzBecome s.cpu.p q v ∧ exec i s = .next ((s.setReg r v).setP q))

/-! ### Transfers -/

/-- TAX, TAY, TXA, TYA, TXY, TYX, TSX: the width is that of the destination; a narrow transfer writes the low byte
only; an index register as a source is XI or YI; N and Z from the value at that width (44 R220 to R225, R227,
R233). -/
def Obligations.TransfersRun : Prop :=
  ∀ (i : Instr) (s : State) (r : Reg) (v : Word),
    (i = .tax ∧ r = .x ∧ v = s.cpu.a ∨ i = .tay ∧ r = .y ∧ v = s.cpu.a ∨ i = .txa ∧ r = .a ∧ v = s.xi ∨
      i = .tya ∧ r = .a ∧ v = s.yi ∨ i = .txy ∧ r = .y ∧ v = s.xi ∨ i = .tyx ∧ r = .x ∧ v = s.yi ∨
      i = .tsx ∧ r = .x ∧ v = s.cpu.s) →
    (s.narrow r = true →
      ∃ q, NzBecome s.cpu.p q (lo v) ∧ exec i s = .next ((s.setRegLo r (lo v)).setP q)) ∧
    (s.narrow r = false → ∃ q, NzBecome s.cpu.p q v ∧ exec i s = .next ((s.setReg r v).setP q))

/-- TXS and TCS write S and no flag, the page forced in emulation mode; TSC, TCD, TDC move all 16 bits in every
mode, N and Z from them; XBA exchanges the bytes of A, N and Z from the new low byte (44 R226, R228 to R232). -/
def Obligations.SixteenBitTransfersRun : Prop :=
  ∀ s : State,
    (s.cpu.e = true → ∀ sp : Word, sp.toNat = 0x100 + s.cpu.x.toNat % 256 → exec .txs s = .next (s.setS sp)) ∧
    (s.cpu.e = false → exec .txs s = .next (s.setS s.xi)) ∧
    (s.cpu.e = true → ∀ sp : Word, sp.toNat = 0x100 + s.cpu.a.toNat % 256 → exec .tcs s = .next (s.setS sp)) ∧
    (s.cpu.e = false → exec .tcs s = .next (s.setS s.cpu.a)) ∧
    (∃ q, NzBecome s.cpu.p q s.cpu.s ∧ exec .tsc s = .next ((s.setReg .a s.cpu.s).setP q)) ∧
    (∃ q, NzBecome s.cpu.p q s.cpu.a ∧ exec .tcd s = .next ((s.setD s.cpu.a).setP q)) ∧
    (∃ q, NzBecome s.cpu.p q s.cpu.d ∧ exec .tdc s = .next ((s.setReg .a s.cpu.d).setP q)) ∧
    ∀ v : Word, v.toNat = s.cpu.a.toNat % 256 * 256 + s.cpu.a.toNat / 256 →
      ∃ q, NzBecome s.cpu.p q (lo v) ∧ exec .xba s = .next ((s.setReg .a v).setP q)

/-! ### The stack -/

/-- The four primitives move one byte in bank 0 at the pointer R240 and R242 give, in both modes, at every value of
S; a word goes high byte first and comes back low byte first; the bus traps them where it traps the byte, the first
byte before the second (45 R240 to R243, 60 R423; bank 0 and the move of S after a push and before a pop are the
spec's decision D14, log 10). -/
def Obligations.StackPrimitives : Prop :=
  (∀ (v : Byte) (s t : State), pushb v s = .ok t ↔ PushesByte v s t) ∧
  (∀ (v : Word) (s t : State), pushw v s = .ok t ↔ PushesWord v s t) ∧
  (∀ (v : Byte) (s t : State), popb s = .ok (v, t) ↔ PopsByte v s t) ∧
  (∀ (v : Word) (s t : State), popw s = .ok (v, t) ↔ PopsWord v s t) ∧
  ∀ (s t : State) (f : Fault),
    (∀ v : Byte, busStore 0x00 s.cpu.s v s = .error f → pushb v s = .error f) ∧
    (∀ v : Word, busStore 0x00 s.cpu.s ((v >>> 8).setWidth 8) s = .error f → pushw v s = .error f) ∧
    (∀ v : Word, PushesByte ((v >>> 8).setWidth 8) s t → busStore 0x00 t.cpu.s (v.setWidth 8) t = .error f →
      pushw v s = .error f) ∧
    (∀ sp : Word, SpAbove s.cpu.e s.cpu.s sp → busLoad 0x00 sp (s.setS sp) = .error f →
      popb s = .error f ∧ popw s = .error f) ∧
    ∀ (l : Byte) (sp : Word), PopsByte l s t → SpAbove t.cpu.e t.cpu.s sp → busLoad 0x00 sp (t.setS sp) = .error f →
      popw s = .error f

/-- On RAM, pushing a word then popping it returns it; pushing byte A then byte B then popping returns B then A;
each full cycle leaves the pointer unchanged; with E = 1 the page stays 0x01 (45 R244). -/
def Obligations.StackIsLastInFirstOut : Prop :=
  ∀ s : State, Memory.wf s.mem → (s.cpu.e = true → hi s.cpu.s = 0x01) → s.StackRam 2 →
    (∀ v : Word, ∃ t u, pushw v s = .ok t ∧ popw t = .ok (v, u) ∧ u.cpu = s.cpu ∧
      (s.cpu.e = true → hi t.cpu.s = 0x01)) ∧
    ∀ a b : Byte, ∃ t u w x, pushb a s = .ok t ∧ pushb b t = .ok u ∧ popb u = .ok (b, w) ∧
      popb w = .ok (a, x) ∧ x.cpu = s.cpu ∧
      (s.cpu.e = true → hi t.cpu.s = 0x01 ∧ hi u.cpu.s = 0x01 ∧ hi w.cpu.s = 0x01)

/-- PHA, PHX, PHY push their register at its width, PHP, PHB, PHK one byte, PHD two; no flag, no other register
than S (45 R245 to R251). They stop only where the bus stops them. -/
def Obligations.PushesRun : Prop :=
  ∀ (s t : State),
    (s.m8 = true → PushesByte (lo s.cpu.a) s t → exec .pha s = .next t) ∧
    (s.m8 = false → PushesWord s.cpu.a s t → exec .pha s = .next t) ∧
    (s.x8 = true → PushesByte (lo s.cpu.x) s t → exec .phx s = .next t) ∧
    (s.x8 = false → PushesWord s.cpu.x s t → exec .phx s = .next t) ∧
    (s.x8 = true → PushesByte (lo s.cpu.y) s t → exec .phy s = .next t) ∧
    (s.x8 = false → PushesWord s.cpu.y s t → exec .phy s = .next t) ∧
    (PushesByte s.cpu.p s t → exec .php s = .next t) ∧
    (PushesByte s.cpu.dbr s t → exec .phb s = .next t) ∧
    (PushesByte s.cpu.pbr s t → exec .phk s = .next t) ∧
    (PushesWord s.cpu.d s t → exec .phd s = .next t)

/-- PLA, PLX, PLY pull their register at its width, N and Z from the value; PLB one byte and PLD two in every mode;
PLP writes all eight bits of P and does not trap in emulation mode (45 R252 to R257). -/
def Obligations.PullsRun : Prop :=
  (∀ (i : Instr) (s t : State) (r : Reg), (i = .pla ∧ r = .a ∨ i = .plx ∧ r = .x ∨ i = .ply ∧ r = .y) →
    (s.narrow r = true → ∀ v : Byte, PopsByte v s t →
      ∃ q, NzBecome s.cpu.p q v ∧ exec i s = .next ((t.setRegLo r v).setP q)) ∧
    (s.narrow r = false → ∀ v : Word, PopsWord v s t →
      ∃ q, NzBecome s.cpu.p q v ∧ exec i s = .next ((t.setReg r v).setP q))) ∧
  (∀ (s t : State) (v : Byte), PopsByte v s t → exec .plp s = .next (t.setP v)) ∧
  (∀ (s t : State) (v : Byte), PopsByte v s t →
    ∃ q, NzBecome s.cpu.p q v ∧ exec .plb s = .next ((t.setDbr v).setP q)) ∧
  ∀ (s t : State) (v : Word), PopsWord v s t →
    ∃ q, NzBecome s.cpu.p q v ∧ exec .pld s = .next ((t.setD v).setP q)

/-! ### Control flow -/

/-- A branch that is taken goes to the offset of the next instruction plus the signed displacement, wrapping inside
its bank; one that is not taken changes nothing; neither traps (46 R270 to R280, 40 R128). -/
def Obligations.BranchesRun : Prop :=
  ∀ (i : Instr) (r : Byte) (s : State), i.variant? = some (.rel r) →
    (i.mnemonic.Taken s.cpu.p → ∀ o : Word, (o.toNat : Int) = (s.cpu.pc.toNat + r.toInt) % 65536 →
      exec i s = .next (s.jump s.cpu.pbr o)) ∧
    (¬ i.mnemonic.Taken s.cpu.p → exec i s = .next s)

/-- JML goes to its operand; JSL pushes the offset of its last byte and its bank in the order of
CALL_STACK_ORDER, then goes to its operand; RTL pops them in that order and goes one past (46 R281 to R283). -/
def Obligations.JumpCallAndReturnRun : Prop :=
  ∀ (s t u : State) (b k : Byte) (a ra pc : Word),
    exec (.jml b a) s = .next (s.jump b a) ∧
    (ra.toNat = (s.cpu.pc.toNat + 65535) % 65536 →
      (s.cfg.callStackOrder = .pbrOnTop → PushesWord ra s t → PushesByte s.cpu.pbr t u →
        exec (.jsl b a) s = .next (u.jump b a)) ∧
      (s.cfg.callStackOrder = .pbrDeepest → PushesByte s.cpu.pbr s t → PushesWord ra t u →
        exec (.jsl b a) s = .next (u.jump b a))) ∧
    (pc.toNat = (ra.toNat + 1) % 65536 →
      (s.cfg.callStackOrder = .pbrOnTop → PopsByte k s t → PopsWord ra t u →
        exec .rtl s = .next (u.jump k pc)) ∧
      (s.cfg.callStackOrder = .pbrDeepest → PopsWord ra s t → PopsByte k t u →
        exec .rtl s = .next (u.jump k pc)))

/-- For either value of CALL_STACK_ORDER: a JSL at (B, o) with stack pointer s, then an RTL with the stack pointer
as just after it and the three bytes unchanged, gives PBR = B, PC = o + 4, S = s, in both modes (46 R284). -/
def Obligations.CallAndReturnPairUp : Prop :=
  ∀ (s : State) (b : Byte) (a o : Word), Memory.wf s.mem → (s.cpu.e = true → hi s.cpu.s = 0x01) →
    s.StackRam 3 → s.cpu.pc = o + 4 →
    ∃ t, exec (.jsl b a) s = .next t ∧ t.cpu.pbr = b ∧ t.cpu.pc = a ∧
      ∀ u : State, u.cfg = t.cfg → u.cpu.e = t.cpu.e → u.cpu.s = t.cpu.s →
        (∀ x ∈ pushOffsets s.cpu.e 3 s.cpu.s, u.byteAt 0x00 x = t.byteAt 0x00 x) →
        ∃ w, exec .rtl u = .next w ∧ w.cpu.pbr = s.cpu.pbr ∧ w.cpu.pc = o + 4 ∧ w.cpu.s = s.cpu.s

/-! ### Status and mode -/

/-- CLC, SEC, CLI, SEI, CLD, SED, CLV write their one flag and nothing else, in every state (47 R301 to R307). -/
def Obligations.FlagInstructionsRun : Prop :=
  ∀ (i : Instr) (op : Byte) (f : Flag) (v : Bool) (s : State),
    (i = .clc ∧ op = 0x18 ∧ f = .c ∧ v = false ∨ i = .sec ∧ op = 0x38 ∧ f = .c ∧ v = true ∨
      i = .cli ∧ op = 0x58 ∧ f = .i ∧ v = false ∨ i = .sei ∧ op = 0x78 ∧ f = .i ∧ v = true ∨
      i = .cld ∧ op = 0xD8 ∧ f = .d ∧ v = false ∨ i = .sed ∧ op = 0xF8 ∧ f = .d ∧ v = true ∨
      i = .clv ∧ op = 0xB8 ∧ f = .v ∧ v = false) →
    encode i = [op] ∧
    ∃ q, exec i s = .next (s.setP q) ∧ getFlag q f = v ∧ ∀ g, g ≠ f → getFlag q g = getFlag s.cpu.p g

/-- REP clears and SEP sets exactly the bits of P their mask selects, in native mode, and change nothing else; in
emulation mode both trap whatever the mask (47 R308, R310). -/
def Obligations.MaskInstructionsRun : Prop :=
  ∀ (k : Byte) (s : State), encode (.rep k) = [0xC2, k] ∧ encode (.sep k) = [0xE2, k] ∧
    (s.cpu.e = false →
      (∃ q, exec (.rep k) s = .next (s.setP q) ∧
        ∀ f, getFlag q f = (getFlag s.cpu.p f && !getFlag k f)) ∧
      ∃ q, exec (.sep k) s = .next (s.setP q) ∧ ∀ f, getFlag q f = (getFlag s.cpu.p f || getFlag k f)) ∧
    (s.cpu.e = true →
      exec (.rep k) s = .fault (.privilegedFlagInEmulation 0xC2 k) ∧
      exec (.sep k) s = .fault (.privilegedFlagInEmulation 0xE2 k))

/-- XCE exchanges carry and E; entering emulation mode re-clamps S to page 0x01 and changes nothing else, leaving
it changes nothing but E and the carry; P.m, P.x and the high bytes of A, X, Y are kept (47 R309, 10 R34). -/
def Obligations.ModeExchangeRuns : Prop :=
  ∀ s : State, ∃ q t, exec .xce s = .next t ∧
    FlagsBecome s.cpu.p q none none none (some s.cpu.e) ∧
    (getFlag s.cpu.p .c = false → t = (s.setP q).setE false) ∧
    (getFlag s.cpu.p .c = true → ∀ sp : Word, sp.toNat = 0x100 + s.cpu.s.toNat % 256 →
      t = ((s.setP q).setE true).setS sp)

/-- NOP changes nothing; RTI restores P, then PC, and in native mode PBR, from the stack (47 R311, R312). -/
def Obligations.NopAndReturnFromInterruptRun : Prop :=
  (∀ s : State, exec .nop s = .next s) ∧
  ∀ (s t u w : State) (p b : Byte) (pc : Word), PopsByte p s t → PopsWord pc (t.setP p) u →
    (s.cpu.e = true → exec .rti s = .next (u.setPc pc)) ∧
    (s.cpu.e = false → PopsByte b (u.setPc pc) w → exec .rti s = .next (w.jump b pc))

/-! ### The interrupt -/

/-- The entry: in native mode PBR, PC and P are pushed, in emulation mode PC and P, P exactly as stored; then P.i is
set and P.d cleared, PBR is 0 and PC is the word at the vector of the mode; E, P.m, P.x, DBR, D, A, X, Y are kept
(60 R432). For a vector parameter of 0xFFFF the second byte is read at 00:0000, where R432 is silent: that is the
model's choice, log 13. -/
def Obligations.InterruptEntry : Prop :=
  ∀ (s f u w : State) (q lb hb : Byte) (pc : Word),
    ((s.cpu.e = false ∧ ∃ x y, PushesByte s.cpu.pbr s x ∧ PushesWord s.cpu.pc x y ∧ PushesByte s.cpu.p y f) ∨
      (s.cpu.e = true ∧ ∃ y, PushesWord s.cpu.pc s y ∧ PushesByte s.cpu.p y f)) →
    getFlag q .i = true → getFlag q .d = false →
    (∀ g, g ≠ .i → g ≠ .d → getFlag q g = getFlag s.cpu.p g) →
    busLoad 0x00 (if s.cpu.e then s.cfg.nmiVectorEmu else s.cfg.nmiVectorNative) ((f.setP q).jump 0x00 f.cpu.pc)
      = .ok (lb, u) →
    busLoad 0x00 ((if s.cpu.e then s.cfg.nmiVectorEmu else s.cfg.nmiVectorNative) + 1) u = .ok (hb, w) →
    pc.toNat = hb.toNat * 256 + lb.toNat →
    cpuInterrupt s = .ok (w.setPc pc) ∧
      w.cpu = { s.cpu with s := f.cpu.s, p := q, pbr := 0x00 }

/-- The entry followed by RTI gives back P, PC and S, and in native mode PBR; in emulation mode PBR is 0 after it,
since the entry does not save it; every other register is as before; of memory only the stack bytes change (60
R432, R435, 47 R312). A vector parameter of 0xFFFF is among the cases, its second byte read at 00:0000: that is the
model's choice, log 13. -/
def Obligations.ReturnUndoesTheEntry : Prop :=
  ∀ s : State, Memory.wf s.mem → (s.cpu.e = true → hi s.cpu.s = 0x01) → s.StackRam (if s.cpu.e then 3 else 4) →
    s.PlainRead 0x00 s.nmiVector → s.PlainRead 0x00 (s.nmiVector + 1) →
    ∃ t u, cpuInterrupt s = .ok t ∧ exec .rti t = .next u ∧
      u.cpu = { s.cpu with pbr := if s.cpu.e then 0x00 else s.cpu.pbr } ∧
      ∀ b o, (∀ x ∈ pushOffsets s.cpu.e (if s.cpu.e then 3 else 4) s.cpu.s, s.Apart b o 0x00 x) →
        u.byteAt b o = s.byteAt b o

/-! ### Frames -/

/-- Whatever the instruction and wherever it stores: every CPU register it is not named to write is unchanged,
every flag it does not declare is unchanged, the high bytes of A, X, Y are kept in 8-bit sub-mode but for the
instructions that always act on 16 bits, and the run status, the parameters, the time base, the dot counters and
the tile list are untouched (10 R21, R22, R30, R36, R38, R45, R47, "Flags written" of R150 to R183, R200 to R210, R220
to R233, R240 to R257, R270 to R284, R301 to R312). For an instruction that reaches a device or starts DMA, that the
device leaves the clock, the dots and the tile list alone is the model's choice, log 5. -/
def Obligations.RegistersAndFlagsFrame : Prop :=
  ∀ (i : Instr) (s t : State), exec i s = .next t →
    SameClock s t ∧
    (.a ∉ i.writes → t.cpu.a = s.cpu.a) ∧ (.x ∉ i.writes → t.cpu.x = s.cpu.x) ∧
    (.y ∉ i.writes → t.cpu.y = s.cpu.y) ∧ (.s ∉ i.writes → t.cpu.s = s.cpu.s) ∧
    (.d ∉ i.writes → t.cpu.d = s.cpu.d) ∧ (.dbr ∉ i.writes → t.cpu.dbr = s.cpu.dbr) ∧
    (.pbr ∉ i.writes → t.cpu.pbr = s.cpu.pbr) ∧ (.pc ∉ i.writes → t.cpu.pc = s.cpu.pc) ∧
    (.e ∉ i.writes → t.cpu.e = s.cpu.e) ∧
    (∀ f, f ∉ i.writesFlags → getFlag t.cpu.p f = getFlag s.cpu.p f) ∧
    (s.m8 = true → i.mnemonic ∉ [.TSC, .TDC, .XBA] → hi t.cpu.a = hi s.cpu.a) ∧
    (s.x8 = true → hi t.cpu.x = hi s.cpu.x ∧ hi t.cpu.y = hi s.cpu.y) ∧
    (s.NoDevices → SameSurroundings s t)

/-- Which bytes of memory an instruction can change: none, if it is no store, no push and no read-modify-write of
memory; the one or two at the address its meaning computes, if it is a store or a read-modify-write; the ones it
pushes, at S and below in bank 0, if it pushes. A store that starts DMA is left out: the DMA writes what it writes.
So is a bus with a device that writes memory behind the bus on its own: R68 allows any side effect, and that a machine
is `Quiet` is a premise about its devices, log 5 (40 R134 to R136, 43 R200, 45 R240, R241, R245 to R251, 46 R270,
R282, 20 R68, R75). -/
def Obligations.MemoryFrame : Prop :=
  (∀ (i : Instr) (s t : State), exec i s = .next t → i.writesMemory = false →
    (s.Quiet → ∀ b o, t.byteAt b o = s.byteAt b o) ∧ t.sched.dmaCycles = s.sched.dmaCycles) ∧
  (∀ (i : Instr) (am : Variant) (s u t : State) (b : Byte) (o : Word), s.Quiet → exec i s = .next t →
    i.variant? = some am → (i.mnemonic.isStore = true ∨ i.mnemonic.isModify = true) →
    address am s = .ok ((b, o), u) → s.NoDma b o → (i.mnemonic.narrow s = false → s.NoDma b (o + 1)) →
    ∀ b' o', s.Apart b' o' b o → (i.mnemonic.narrow s = false → s.Apart b' o' b (o + 1)) →
      t.byteAt b' o' = s.byteAt b' o') ∧
  ∀ (i : Instr) (s t : State), s.Quiet → exec i s = .next t → i.mnemonic.isPush = true →
    (∀ x ∈ pushOffsets s.cpu.e (i.pushes s) s.cpu.s, s.NoDma 0x00 x) →
    ∀ b o, (∀ x ∈ pushOffsets s.cpu.e (i.pushes s) s.cpu.s, s.Apart b o 0x00 x) →
      t.byteAt b o = s.byteAt b o

/-! ### The picture processor -/

/-- One dot: on a visible position it writes `frame[v][h]` with `pixel(h, v)`, and no other pixel; at the start of a
visible line it first rebuilds the list of that line; elsewhere it writes neither. Then it moves the counters to the
next position and reports the events of the new one. Of the state it writes only the counters, the tile list with its
line, the two overflow conditions, which it never clears, and the pixels; the list never exceeds 34. A trap of the
pixel is its trap, and there is no other (49 R360, R361, R370, 10 R46, R47, R48; pixels are keyed by line times
VISIBLE_W plus x, log 20). -/
def Obligations.OneDot : Prop :=
  ∀ (s r : State) (h v : Nat), h = s.dots.h → v = s.dots.v →
    r = (if h = 0 ∧ v < s.cfg.geometry.visibleH then rebuild v s else s) →
    (∀ (t : State) (ev : DotEvents), ppuAdvance s = .ok (ev, t) →
      (t.dots.h, t.dots.v) = nextPos s.cfg.geometry (h, v) ∧
      ev.cycles = s.cfg.dotMasterCycles ∧
      (ev.hblank = true ↔ t.dots.h = s.cfg.geometry.hblankDot) ∧
      (ev.vblank = true ↔ t.dots.h = 0 ∧ t.dots.v = s.cfg.geometry.vblankLine) ∧
      t = { s with dots := t.dots } ∧
      (s.dots.rangeOver = true → t.dots.rangeOver = true) ∧ (s.dots.timeOver = true → t.dots.timeOver = true) ∧
      (s.dots.tiles.length ≤ 34 → t.dots.tiles.length ≤ 34)) ∧
    (h < s.cfg.geometry.visibleW → v < s.cfg.geometry.visibleH →
      (∀ f, pixel h v r = .error f → ppuAdvance s = .error f) ∧
      ∀ (c : Rgb) (u : State), pixel h v r = .ok (c, u) →
        ∃ ev t, ppuAdvance s = .ok (ev, t) ∧
          cellFind? t.dots.frame (v * s.cfg.geometry.visibleW + h) = some c ∧
          (∀ k, k ≠ v * s.cfg.geometry.visibleW + h → cellFind? t.dots.frame k = cellFind? s.dots.frame k) ∧
          t.dots.tiles = u.dots.tiles ∧ t.dots.tilesLine = some v ∧
          t.dots.rangeOver = u.dots.rangeOver ∧ t.dots.timeOver = u.dots.timeOver) ∧
    (¬ (h < s.cfg.geometry.visibleW ∧ v < s.cfg.geometry.visibleH) →
      ∃ ev t, ppuAdvance s = .ok (ev, t) ∧ t.dots = { r.dots with h := t.dots.h, v := t.dots.v })

/-- Horizontal blank is reported on exactly one dot of every line, vertical blank on exactly one dot of every
frame, never both on one dot (49 R362). -/
def Obligations.BlankingFrequency : Prop :=
  ∀ (g : Geometry) (h v : Nat), 0 < g.hblankDot → g.hblankDot < g.dotsPerLine →
    g.visibleH ≤ g.vblankLine → g.vblankLine < g.linesPerFrame → h < g.dotsPerLine → v < g.linesPerFrame →
    (List.range g.dotsPerLine).countP (fun k => (posAfter g (k + 1) (h, v)).1 == g.hblankDot) = 1 ∧
    (List.range (g.dotsPerLine * g.linesPerFrame)).countP
      (fun k => posAfter g (k + 1) (h, v) == (0, g.vblankLine)) = 1 ∧
    ∀ k, ¬ ((posAfter g k (h, v)).1 = g.hblankDot ∧ posAfter g k (h, v) = (0, g.vblankLine))

/-- The rebuild of a scanline is the scan of R371 and the emission of R376, loop for loop: 128 entries from
`oam_first` on, wrapping, at most 32 selected, the 33rd that qualifies sets the range condition and stops the scan;
the tiles of the selected sprites, last selected first, at most 34, the 35th sets the time condition and stops
everything; neither condition is ever cleared. What qualifies, and which descriptors a sprite has, are the tests of
R372 to R374 and the descriptors of R375 and R377, written over numbers; the sizes are OBJ_SIZE_TABLE's, whose default
is R372's. A pixel lookup keeps a list built for its line and rebuilds one built for another, so no list leaks to the
wrong scanline (10 R46, R47, 49 R370 to R377; that `w / 8` rounds down for a width that is no multiple of 8, which R372
does not have, and that a character address is left unreduced for a VRAM_BYTES of 0, on which R375 is silent, are
choices of the model, DESIGN CHOICE, logs 30 and 29). -/
def Obligations.TileListIsTheScanOfItsLine : Prop :=
  (∀ (s : State) (line : Nat) (sel : List (Fin 128)) (tiles : List Tile) (range time : Bool),
    s.scan line ((List.range 128).map s.scanIndex) [] s.dots.rangeOver = (sel, range) →
    s.emit line sel.reverse [] s.dots.timeOver = (tiles, time) →
    rebuild line s = { s with dots := { s.dots with
      tiles := tiles, tilesLine := some line, rangeOver := range, timeOver := time } } ∧
    sel.length ≤ 32 ∧ tiles.length ≤ 34) ∧
  (∀ (s : State) (k : Nat), (s.scanIndex k).val = (s.pic.obj.oamFirst.toNat + k) % 128) ∧
  (∀ (s : State) (line w ht dy : Nat) (x : Int) (e : OamEntry), s.SizeIs e w ht → XIs e x → RowIs e line dy →
    (s.qualifies line e = true ↔ dy < ht ∧ -(w : Int) < x)) ∧
  (∀ (s : State) (line w ht dy : Nat) (x : Int) (i : Fin 128), s.SizeIs (s.pic.oam.get i) w ht →
    XIs (s.pic.oam.get i) x → RowIs (s.pic.oam.get i) line dy →
    (s.spriteTiles line i).length = w / 8 ∧
    ∀ (t : Nat) (d : Tile), (s.spriteTiles line i)[t]? = some d → s.DescriptorIs (s.pic.oam.get i) x dy t d) ∧
  (defaultObjSizes.toList.map fun z => ((z.small.width, z.small.height), (z.large.width, z.large.height))) =
    [((8, 8), (16, 16)), ((8, 8), (32, 32)), ((8, 8), (64, 64)), ((16, 16), (32, 32)), ((16, 16), (64, 64)),
     ((32, 32), (64, 64)), ((16, 32), (32, 64)), ((16, 32), (32, 32))] ∧
  ∀ (x line : Nat) (s t : State) (c : Rgb), pixel x line s = .ok (c, t) →
    t.dots.tilesLine = some line ∧ (s.dots.tilesLine = some line → t = s) ∧
    (s.dots.tilesLine ≠ some line → t = rebuild line s)

/-- Inside the debug region the pixel is the colour of the region's index there, whatever the mode. Outside it the
pixel is the colour of the first candidate in the order of the mode that is not transparent, else of colour 0; a mode
outside the table traps, and a visible dot under it ends the run. The state after it is `ensureTiles line s`: the
lookup rebuilds the tile list first where it is another line's, and changes nothing else (49 R370, R380, R381, R390 to
R393; that a debug-region pixel rebuilds too is read by inference, DEDUCED, log 27; an index the region does not list
is 0, log 25). -/
def Obligations.FirstOpaqueCandidateWins : Prop :=
  ∀ (x line : Nat) (s : State),
    (x < s.cfg.debugRegion.width → line < s.cfg.debugRegion.height →
      (∀ k : Byte, s.cfg.debugRegion.index[line * s.cfg.debugRegion.width + x]? = some k →
        pixel x line s = .ok (rgb (s.pic.cgram.get k.toFin), ensureTiles line s)) ∧
      (s.cfg.debugRegion.index[line * s.cfg.debugRegion.width + x]? = none →
        pixel x line s = .ok (rgb (s.pic.cgram.get 0), ensureTiles line s))) ∧
    (¬ (x < s.cfg.debugRegion.width ∧ line < s.cfg.debugRegion.height) →
      (s.cfg.bgModeTable.get s.pic.bgMode.toFin = none →
        pixel x line s = .error (.unsupportedBgMode s.pic.bgMode) ∧
        (s.dots.h = x → s.dots.v = line → x < s.cfg.geometry.visibleW → line < s.cfg.geometry.visibleH →
          ppuAdvance s = .error (.unsupportedBgMode s.pic.bgMode))) ∧
      ∀ row, s.cfg.bgModeTable.get s.pic.bgMode.toFin = some row →
        (∀ pre c post k, row.order = pre ++ c :: post →
          (∀ d ∈ pre, (ensureTiles line s).candidate row x line d = none) →
          (ensureTiles line s).candidate row x line c = some k →
          pixel x line s = .ok (rgb (s.color k), ensureTiles line s)) ∧
        ((∀ d ∈ row.order, (ensureTiles line s).candidate row x line d = none) →
          pixel x line s = .ok (rgb (s.color 0), ensureTiles line s)))

/-- A sprite candidate is the first descriptor of the list that covers the column at the priority asked for: the
first at all under FirstCovering, the first with an index other than 0 under FirstOpaque; its colour is 128 plus
sixteen times its palette plus its index. A background candidate is scroll, tile, entry, flips, character address and
palette base as R383 computes them. Index 0 is transparent, so a sprite's colour lies in 129 to 255, a background's in
1 to 255, and the backdrop is reached by no layer (49 R382, R383, R386, R388, R392; a layer the mode does not have is
transparent, log 26; that byte addresses, and for a VRAM_BYTES of 0 or 1 the entry's word address, are left unreduced
where the size they are taken modulo is 0, and that the half of an odd VRAM_BYTES is rounded down, is the choice of the
model, DESIGN CHOICE, log 29). -/
def Obligations.CandidateColoursInRange : Prop :=
  (∀ (s : State) (x : Nat) (p : BitVec 2),
    (s.cfg.spriteLookup = .firstCovering →
      (∀ pre d post idx, s.dots.tiles = pre ++ d :: post → (∀ c ∈ pre, ¬ c.Covers x p) → d.Covers x p →
        s.TileIndexIs d x idx →
        s.spriteCandidate x p = if idx = 0 then none else some (128 + d.palette.toNat * 16 + idx)) ∧
      ((∀ d ∈ s.dots.tiles, ¬ d.Covers x p) → s.spriteCandidate x p = none)) ∧
    (s.cfg.spriteLookup = .firstOpaque →
      (∀ pre d post idx, s.dots.tiles = pre ++ d :: post → (∀ c ∈ pre, c.Covers x p → s.TileIndexIs c x 0) →
        d.Covers x p → s.TileIndexIs d x idx → idx ≠ 0 →
        s.spriteCandidate x p = some (128 + d.palette.toNat * 16 + idx)) ∧
      ((∀ d ∈ s.dots.tiles, d.Covers x p → s.TileIndexIs d x 0) → s.spriteCandidate x p = none)) ∧
    ∀ k, s.spriteCandidate x p = some k → 128 < k ∧ k ≤ 255) ∧
  ∀ (s : State) (row : BgModeRow) (b : Fin 4) (p : Bool) (x line : Nat),
    (row.depth.get b = none → s.bgCandidate row b p x line = none) ∧
    (∀ (depth : Depth) (n px py m fx fy idx base : Nat) (e : Word),
      row.depth.get b = some depth → (depth, n) ∈ [(Depth.two, 2), (.four, 4), (.eight, 8)] →
      px = (x + (s.pic.layers.get b).hofs.toNat) % 1024 → py = (line + (s.pic.layers.get b).vofs.toNat) % 1024 →
      m = s.mapAddress b (px / 8) (py / 8) →
      e.toNat = (bytesRead s.pic.vram ((2 * m + 1) % s.cfg.vramBytes)).toNat * 256
        + (bytesRead s.pic.vram (2 * m % s.cfg.vramBytes)).toNat →
      fx = (if (tilemapEntry e).hflip then 7 - px % 8 else px % 8) →
      fy = (if (tilemapEntry e).vflip then 7 - py % 8 else py % 8) →
      idx = s.decodePixel (((s.pic.layers.get b).chrBase * 2 + (tilemapEntry e).tile.toNat * 8 * n) % s.cfg.vramBytes)
        n fy fx →
      s.PaletteBaseIs b n (tilemapEntry e).palette base →
      ((tilemapEntry e).prio ≠ p → s.bgCandidate row b p x line = none) ∧
      ((tilemapEntry e).prio = p →
        s.bgCandidate row b p x line = if idx = 0 then none else some (base + idx))) ∧
    ∀ k, s.bgCandidate row b p x line = some k → 0 < k ∧ k ≤ 255

/-- Bit j of a decoded index is bit 7 - col of the byte of plane j on that row: planes in interleaved pairs, 16
bytes a pair, the leftmost pixel bit 7; the index has n bits (49 R387, 10 R40; that the byte's address is left unreduced
for a VRAM_BYTES of 0, on which the rules are silent, is the choice of the model, DESIGN CHOICE, log 29). -/
def Obligations.BitplanesDecode : Prop :=
  ∀ (s : State) (chr n row col : Nat), (n = 2 ∨ n = 4 ∨ n = 8) → row < 8 → col < 8 →
    s.decodePixel chr n row col < 2 ^ n ∧
    ∀ j, j < n → (s.decodePixel chr n row col).testBit j =
      (bytesRead s.pic.vram ((chr + 16 * (j / 2) + 2 * row + j % 2) % s.cfg.vramBytes)).getLsbD (7 - col)

/-- The fields of a tilemap word fill its 16 bits in the order vflip, hflip, prio, palette, tile; the word of a
tile lies in the 32 by 32 screen its coordinates and the two mirror bits select (49 R384, R385; that the address is left
unreduced for a VRAM_BYTES of 0 or 1, whose half is 0, and that the half of an odd VRAM_BYTES is rounded down, is the
choice of the model, DESIGN CHOICE, log 29). -/
def Obligations.TilemapEntriesAndAddresses : Prop :=
  (∀ w : Word, w.toNat = (tilemapEntry w).vflip.toNat * 32768 + (tilemapEntry w).hflip.toNat * 16384
    + (tilemapEntry w).prio.toNat * 8192 + (tilemapEntry w).palette.toNat * 1024 + (tilemapEntry w).tile.toNat) ∧
  ∀ (s : State) (b : Fin 4) (tx ty screen : Nat),
    ((s.pic.layers.get b).mapHmirror = true → (s.pic.layers.get b).mapVmirror = true → screen = 0) →
    ((s.pic.layers.get b).mapHmirror = false → (s.pic.layers.get b).mapVmirror = true →
      screen = tx / 32 % 2) →
    ((s.pic.layers.get b).mapHmirror = true → (s.pic.layers.get b).mapVmirror = false →
      screen = ty / 32 % 2) →
    ((s.pic.layers.get b).mapHmirror = false → (s.pic.layers.get b).mapVmirror = false →
      screen = tx / 32 % 2 + 2 * (ty / 32 % 2)) →
    s.mapAddress b tx ty =
      ((s.pic.layers.get b).mapBase + screen * 1024 + ty % 32 * 32 + tx % 32) % (s.cfg.vramBytes / 2)

/-- A colour's channels are its three 5-bit fields times 8, each a multiple of 8 in 0 to 248 (49 R393, 10 R42). -/
def Obligations.ColourChannels : Prop :=
  ∀ c : BitVec 15, (rgb c).r.toNat = c.toNat % 32 * 8 ∧ (rgb c).g.toNat = c.toNat / 32 % 32 * 8 ∧
    (rgb c).b.toNat = c.toNat / 1024 % 32 * 8 ∧
    (rgb c).r.toNat ≤ 248 ∧ (rgb c).g.toNat ≤ 248 ∧ (rgb c).b.toNat ≤ 248

end
end

