-- ==== Sys2Proof/Laws/Cells.lean ====
section
/-! SUPPORT. Sparse contents: what a key reads as after an update, and that every update keeps the keys rising
and the canonical form. -/

namespace Sys2Proof.Machine

variable {α : Type}

/-- Keys strictly rising. -/
abbrev Rising (m : List (Nat × α)) : Prop := m.Pairwise (fun p q => p.1 < q.1)

theorem cellFind?_none_of_lt {m : List (Nat × α)} {a : Nat} (h : ∀ p ∈ m, a < p.1) : cellFind? m a = none := by
  induction m with
  | nil => rfl
  | cons c t ih =>
    obtain ⟨k, v⟩ := c
    have hk : a < k := h (k, v) (by simp)
    simp only [cellFind?, Nat.ne_of_lt hk, if_false]
    exact ih fun p hp => h p (by simp [hp])

theorem cellFind?_cellPut_same (m : List (Nat × α)) (a : Nat) (v : α) :
    cellFind? (cellPut a v m) a = some v := by
  induction m with
  | nil => simp [cellPut, cellFind?]
  | cons c t ih =>
    obtain ⟨k, w⟩ := c
    simp only [cellPut]
    split
    · simp [cellFind?]
    · split
      · simp [cellFind?]
      · rename_i h; simp [cellFind?, h, ih]

theorem cellFind?_cellPut_other (m : List (Nat × α)) {a b : Nat} (v : α) (hab : b ≠ a) :
    cellFind? (cellPut a v m) b = cellFind? m b := by
  induction m with
  | nil => simp [cellPut, cellFind?, hab]
  | cons c t ih =>
    obtain ⟨k, w⟩ := c
    simp only [cellPut]
    split
    · simp [cellFind?, hab]
    · split
      · rename_i h; subst h; simp [cellFind?, hab]
      · simp only [cellFind?, ih]

theorem cellFind?_cellDrop_same {m : List (Nat × α)} (h : Rising m) (a : Nat) :
    cellFind? (cellDrop a m) a = none := by
  induction m with
  | nil => rfl
  | cons c t ih =>
    obtain ⟨k, w⟩ := c
    have ht := List.pairwise_cons.mp h
    simp only [cellDrop]
    split
    · rename_i hk; subst hk; exact cellFind?_none_of_lt ht.1
    · rename_i hk; simp only [cellFind?, hk, if_false]; exact ih ht.2

theorem cellFind?_cellDrop_other (m : List (Nat × α)) {a b : Nat} (hab : b ≠ a) :
    cellFind? (cellDrop a m) b = cellFind? m b := by
  induction m with
  | nil => rfl
  | cons c t ih =>
    obtain ⟨k, w⟩ := c
    simp only [cellDrop]
    split
    · rename_i hk; subst hk; simp [cellFind?, hab]
    · simp only [cellFind?, ih]

theorem mem_cellPut {m : List (Nat × α)} {a : Nat} {v : α} {p : Nat × α} (h : p ∈ cellPut a v m) :
    p = (a, v) ∨ p ∈ m := by
  induction m with
  | nil => simpa [cellPut] using h
  | cons c t ih =>
    obtain ⟨k, w⟩ := c
    simp only [cellPut] at h
    split at h
    · simpa using h
    · split at h
      · rcases List.mem_cons.mp h with h | h
        · exact .inl h
        · exact .inr (by simp [h])
      · rcases List.mem_cons.mp h with h | h
        · exact .inr (by simp [h])
        · rcases ih h with h | h
          · exact .inl h
          · exact .inr (by simp [h])

theorem mem_cellDrop {m : List (Nat × α)} {a : Nat} {p : Nat × α} (h : p ∈ cellDrop a m) : p ∈ m := by
  induction m with
  | nil => simp [cellDrop] at h
  | cons c t ih =>
    obtain ⟨k, w⟩ := c
    simp only [cellDrop] at h
    split at h
    · simp [h]
    · rcases List.mem_cons.mp h with h | h
      · simp [h]
      · simp [ih h]

theorem rising_cellPut {m : List (Nat × α)} (h : Rising m) (a : Nat) (v : α) : Rising (cellPut a v m) := by
  induction m with
  | nil => simp [cellPut, Rising]
  | cons c t ih =>
    obtain ⟨k, w⟩ := c
    obtain ⟨hk, ht⟩ := List.pairwise_cons.mp h
    simp only [cellPut]
    split
    · rename_i hak
      refine List.pairwise_cons.mpr ⟨?_, h⟩
      intro p hp
      rcases List.mem_cons.mp hp with hp | hp
      · subst hp; exact hak
      · exact Nat.lt_trans hak (hk p hp)
    · split
      · rename_i hak; subst hak; exact List.pairwise_cons.mpr ⟨hk, ht⟩
      · refine List.pairwise_cons.mpr ⟨?_, ih ht⟩
        intro p hp
        rcases mem_cellPut hp with hp | hp
        · subst hp; simp only; omega
        · exact hk p hp

theorem rising_cellDrop {m : List (Nat × α)} (h : Rising m) (a : Nat) : Rising (cellDrop a m) := by
  induction m with
  | nil => exact h
  | cons c t ih =>
    obtain ⟨k, w⟩ := c
    obtain ⟨hk, ht⟩ := List.pairwise_cons.mp h
    simp only [cellDrop]
    split
    · exact ht
    · exact List.pairwise_cons.mpr ⟨fun p hp => hk p (mem_cellDrop hp), ih ht⟩

/-- A read after a write to the same place gives the value written. -/
theorem bytesRead_bytesWrite_same {m : List Host.Cell} (h : Rising m) (a : Nat) (v : Byte) :
    bytesRead (bytesWrite m a v) a = v := by
  unfold bytesRead bytesWrite
  split
  · rename_i hv; simp [cellFind?_cellDrop_same h, hv]
  · simp [cellFind?_cellPut_same]

/-- A write leaves every other place alone. -/
theorem bytesRead_bytesWrite_other (m : List Host.Cell) {a b : Nat} (v : Byte) (hab : b ≠ a) :
    bytesRead (bytesWrite m a v) b = bytesRead m b := by
  unfold bytesRead bytesWrite
  split
  · rw [cellFind?_cellDrop_other m hab]
  · rw [cellFind?_cellPut_other m v hab]

/-- A write inside the bound keeps the canonical form. -/
theorem bytesWf_bytesWrite {bound : Nat} {m : List Host.Cell} (h : bytesWf bound m) {a : Nat} (ha : a < bound)
    (v : Byte) : bytesWf bound (bytesWrite m a v) := by
  unfold bytesWrite
  split
  · exact ⟨rising_cellDrop h.1 a, fun c hc => h.2 c (mem_cellDrop hc)⟩
  · rename_i hv
    refine ⟨rising_cellPut h.1 a v, fun c hc => ?_⟩
    rcases mem_cellPut hc with hc | hc
    · subst hc; exact ⟨ha, hv⟩
    · exact h.2 c hc

theorem bytesWf_nil (bound : Nat) : bytesWf bound [] := ⟨List.Pairwise.nil, by simp⟩

end Sys2Proof.Machine
end

