-- ==== Sys2Proof/Laws/State.lean ====
section
/-! SUPPORT. One lemma per field per update of State (true by rfl), so that no later proof unfolds a record
update. -/

namespace Sys2Proof.Machine

/-! ### setP -/

@[simp] theorem State.setP_halt (s : State) (v : Byte) : (s.setP v).halt = s.halt := rfl
@[simp] theorem State.setP_sched (s : State) (v : Byte) : (s.setP v).sched = s.sched := rfl
@[simp] theorem State.setP_pic (s : State) (v : Byte) : (s.setP v).pic = s.pic := rfl
@[simp] theorem State.setP_dots (s : State) (v : Byte) : (s.setP v).dots = s.dots := rfl
@[simp] theorem State.setP_mem (s : State) (v : Byte) : (s.setP v).mem = s.mem := rfl
@[simp] theorem State.setP_box (s : State) (v : Byte) : (s.setP v).box = s.box := rfl
@[simp] theorem State.setP_cfg (s : State) (v : Byte) : (s.setP v).cfg = s.cfg := rfl
@[simp] theorem State.setP_cpu_a (s : State) (v : Byte) : (s.setP v).cpu.a = s.cpu.a := rfl
@[simp] theorem State.setP_cpu_x (s : State) (v : Byte) : (s.setP v).cpu.x = s.cpu.x := rfl
@[simp] theorem State.setP_cpu_y (s : State) (v : Byte) : (s.setP v).cpu.y = s.cpu.y := rfl
@[simp] theorem State.setP_cpu_s (s : State) (v : Byte) : (s.setP v).cpu.s = s.cpu.s := rfl
@[simp] theorem State.setP_cpu_d (s : State) (v : Byte) : (s.setP v).cpu.d = s.cpu.d := rfl
@[simp] theorem State.setP_cpu_dbr (s : State) (v : Byte) : (s.setP v).cpu.dbr = s.cpu.dbr := rfl
@[simp] theorem State.setP_cpu_pbr (s : State) (v : Byte) : (s.setP v).cpu.pbr = s.cpu.pbr := rfl
@[simp] theorem State.setP_cpu_pc (s : State) (v : Byte) : (s.setP v).cpu.pc = s.cpu.pc := rfl
@[simp] theorem State.setP_cpu_p (s : State) (v : Byte) : (s.setP v).cpu.p = v := rfl
@[simp] theorem State.setP_cpu_e (s : State) (v : Byte) : (s.setP v).cpu.e = s.cpu.e := rfl

/-! ### setS -/

@[simp] theorem State.setS_halt (s : State) (v : Word) : (s.setS v).halt = s.halt := rfl
@[simp] theorem State.setS_sched (s : State) (v : Word) : (s.setS v).sched = s.sched := rfl
@[simp] theorem State.setS_pic (s : State) (v : Word) : (s.setS v).pic = s.pic := rfl
@[simp] theorem State.setS_dots (s : State) (v : Word) : (s.setS v).dots = s.dots := rfl
@[simp] theorem State.setS_mem (s : State) (v : Word) : (s.setS v).mem = s.mem := rfl
@[simp] theorem State.setS_box (s : State) (v : Word) : (s.setS v).box = s.box := rfl
@[simp] theorem State.setS_cfg (s : State) (v : Word) : (s.setS v).cfg = s.cfg := rfl
@[simp] theorem State.setS_cpu_a (s : State) (v : Word) : (s.setS v).cpu.a = s.cpu.a := rfl
@[simp] theorem State.setS_cpu_x (s : State) (v : Word) : (s.setS v).cpu.x = s.cpu.x := rfl
@[simp] theorem State.setS_cpu_y (s : State) (v : Word) : (s.setS v).cpu.y = s.cpu.y := rfl
@[simp] theorem State.setS_cpu_s (s : State) (v : Word) : (s.setS v).cpu.s = v := rfl
@[simp] theorem State.setS_cpu_d (s : State) (v : Word) : (s.setS v).cpu.d = s.cpu.d := rfl
@[simp] theorem State.setS_cpu_dbr (s : State) (v : Word) : (s.setS v).cpu.dbr = s.cpu.dbr := rfl
@[simp] theorem State.setS_cpu_pbr (s : State) (v : Word) : (s.setS v).cpu.pbr = s.cpu.pbr := rfl
@[simp] theorem State.setS_cpu_pc (s : State) (v : Word) : (s.setS v).cpu.pc = s.cpu.pc := rfl
@[simp] theorem State.setS_cpu_p (s : State) (v : Word) : (s.setS v).cpu.p = s.cpu.p := rfl
@[simp] theorem State.setS_cpu_e (s : State) (v : Word) : (s.setS v).cpu.e = s.cpu.e := rfl

/-! ### setD -/

@[simp] theorem State.setD_halt (s : State) (v : Word) : (s.setD v).halt = s.halt := rfl
@[simp] theorem State.setD_sched (s : State) (v : Word) : (s.setD v).sched = s.sched := rfl
@[simp] theorem State.setD_pic (s : State) (v : Word) : (s.setD v).pic = s.pic := rfl
@[simp] theorem State.setD_dots (s : State) (v : Word) : (s.setD v).dots = s.dots := rfl
@[simp] theorem State.setD_mem (s : State) (v : Word) : (s.setD v).mem = s.mem := rfl
@[simp] theorem State.setD_box (s : State) (v : Word) : (s.setD v).box = s.box := rfl
@[simp] theorem State.setD_cfg (s : State) (v : Word) : (s.setD v).cfg = s.cfg := rfl
@[simp] theorem State.setD_cpu_a (s : State) (v : Word) : (s.setD v).cpu.a = s.cpu.a := rfl
@[simp] theorem State.setD_cpu_x (s : State) (v : Word) : (s.setD v).cpu.x = s.cpu.x := rfl
@[simp] theorem State.setD_cpu_y (s : State) (v : Word) : (s.setD v).cpu.y = s.cpu.y := rfl
@[simp] theorem State.setD_cpu_s (s : State) (v : Word) : (s.setD v).cpu.s = s.cpu.s := rfl
@[simp] theorem State.setD_cpu_d (s : State) (v : Word) : (s.setD v).cpu.d = v := rfl
@[simp] theorem State.setD_cpu_dbr (s : State) (v : Word) : (s.setD v).cpu.dbr = s.cpu.dbr := rfl
@[simp] theorem State.setD_cpu_pbr (s : State) (v : Word) : (s.setD v).cpu.pbr = s.cpu.pbr := rfl
@[simp] theorem State.setD_cpu_pc (s : State) (v : Word) : (s.setD v).cpu.pc = s.cpu.pc := rfl
@[simp] theorem State.setD_cpu_p (s : State) (v : Word) : (s.setD v).cpu.p = s.cpu.p := rfl
@[simp] theorem State.setD_cpu_e (s : State) (v : Word) : (s.setD v).cpu.e = s.cpu.e := rfl

/-! ### setDbr -/

@[simp] theorem State.setDbr_halt (s : State) (v : Byte) : (s.setDbr v).halt = s.halt := rfl
@[simp] theorem State.setDbr_sched (s : State) (v : Byte) : (s.setDbr v).sched = s.sched := rfl
@[simp] theorem State.setDbr_pic (s : State) (v : Byte) : (s.setDbr v).pic = s.pic := rfl
@[simp] theorem State.setDbr_dots (s : State) (v : Byte) : (s.setDbr v).dots = s.dots := rfl
@[simp] theorem State.setDbr_mem (s : State) (v : Byte) : (s.setDbr v).mem = s.mem := rfl
@[simp] theorem State.setDbr_box (s : State) (v : Byte) : (s.setDbr v).box = s.box := rfl
@[simp] theorem State.setDbr_cfg (s : State) (v : Byte) : (s.setDbr v).cfg = s.cfg := rfl
@[simp] theorem State.setDbr_cpu_a (s : State) (v : Byte) : (s.setDbr v).cpu.a = s.cpu.a := rfl
@[simp] theorem State.setDbr_cpu_x (s : State) (v : Byte) : (s.setDbr v).cpu.x = s.cpu.x := rfl
@[simp] theorem State.setDbr_cpu_y (s : State) (v : Byte) : (s.setDbr v).cpu.y = s.cpu.y := rfl
@[simp] theorem State.setDbr_cpu_s (s : State) (v : Byte) : (s.setDbr v).cpu.s = s.cpu.s := rfl
@[simp] theorem State.setDbr_cpu_d (s : State) (v : Byte) : (s.setDbr v).cpu.d = s.cpu.d := rfl
@[simp] theorem State.setDbr_cpu_dbr (s : State) (v : Byte) : (s.setDbr v).cpu.dbr = v := rfl
@[simp] theorem State.setDbr_cpu_pbr (s : State) (v : Byte) : (s.setDbr v).cpu.pbr = s.cpu.pbr := rfl
@[simp] theorem State.setDbr_cpu_pc (s : State) (v : Byte) : (s.setDbr v).cpu.pc = s.cpu.pc := rfl
@[simp] theorem State.setDbr_cpu_p (s : State) (v : Byte) : (s.setDbr v).cpu.p = s.cpu.p := rfl
@[simp] theorem State.setDbr_cpu_e (s : State) (v : Byte) : (s.setDbr v).cpu.e = s.cpu.e := rfl

/-! ### setPc -/

@[simp] theorem State.setPc_halt (s : State) (v : Word) : (s.setPc v).halt = s.halt := rfl
@[simp] theorem State.setPc_sched (s : State) (v : Word) : (s.setPc v).sched = s.sched := rfl
@[simp] theorem State.setPc_pic (s : State) (v : Word) : (s.setPc v).pic = s.pic := rfl
@[simp] theorem State.setPc_dots (s : State) (v : Word) : (s.setPc v).dots = s.dots := rfl
@[simp] theorem State.setPc_mem (s : State) (v : Word) : (s.setPc v).mem = s.mem := rfl
@[simp] theorem State.setPc_box (s : State) (v : Word) : (s.setPc v).box = s.box := rfl
@[simp] theorem State.setPc_cfg (s : State) (v : Word) : (s.setPc v).cfg = s.cfg := rfl
@[simp] theorem State.setPc_cpu_a (s : State) (v : Word) : (s.setPc v).cpu.a = s.cpu.a := rfl
@[simp] theorem State.setPc_cpu_x (s : State) (v : Word) : (s.setPc v).cpu.x = s.cpu.x := rfl
@[simp] theorem State.setPc_cpu_y (s : State) (v : Word) : (s.setPc v).cpu.y = s.cpu.y := rfl
@[simp] theorem State.setPc_cpu_s (s : State) (v : Word) : (s.setPc v).cpu.s = s.cpu.s := rfl
@[simp] theorem State.setPc_cpu_d (s : State) (v : Word) : (s.setPc v).cpu.d = s.cpu.d := rfl
@[simp] theorem State.setPc_cpu_dbr (s : State) (v : Word) : (s.setPc v).cpu.dbr = s.cpu.dbr := rfl
@[simp] theorem State.setPc_cpu_pbr (s : State) (v : Word) : (s.setPc v).cpu.pbr = s.cpu.pbr := rfl
@[simp] theorem State.setPc_cpu_pc (s : State) (v : Word) : (s.setPc v).cpu.pc = v := rfl
@[simp] theorem State.setPc_cpu_p (s : State) (v : Word) : (s.setPc v).cpu.p = s.cpu.p := rfl
@[simp] theorem State.setPc_cpu_e (s : State) (v : Word) : (s.setPc v).cpu.e = s.cpu.e := rfl

/-! ### jump -/

@[simp] theorem State.jump_halt (s : State) (b : Byte) (o : Word) : (s.jump b o).halt = s.halt := rfl
@[simp] theorem State.jump_sched (s : State) (b : Byte) (o : Word) : (s.jump b o).sched = s.sched := rfl
@[simp] theorem State.jump_pic (s : State) (b : Byte) (o : Word) : (s.jump b o).pic = s.pic := rfl
@[simp] theorem State.jump_dots (s : State) (b : Byte) (o : Word) : (s.jump b o).dots = s.dots := rfl
@[simp] theorem State.jump_mem (s : State) (b : Byte) (o : Word) : (s.jump b o).mem = s.mem := rfl
@[simp] theorem State.jump_box (s : State) (b : Byte) (o : Word) : (s.jump b o).box = s.box := rfl
@[simp] theorem State.jump_cfg (s : State) (b : Byte) (o : Word) : (s.jump b o).cfg = s.cfg := rfl
@[simp] theorem State.jump_cpu_a (s : State) (b : Byte) (o : Word) : (s.jump b o).cpu.a = s.cpu.a := rfl
@[simp] theorem State.jump_cpu_x (s : State) (b : Byte) (o : Word) : (s.jump b o).cpu.x = s.cpu.x := rfl
@[simp] theorem State.jump_cpu_y (s : State) (b : Byte) (o : Word) : (s.jump b o).cpu.y = s.cpu.y := rfl
@[simp] theorem State.jump_cpu_s (s : State) (b : Byte) (o : Word) : (s.jump b o).cpu.s = s.cpu.s := rfl
@[simp] theorem State.jump_cpu_d (s : State) (b : Byte) (o : Word) : (s.jump b o).cpu.d = s.cpu.d := rfl
@[simp] theorem State.jump_cpu_dbr (s : State) (b : Byte) (o : Word) : (s.jump b o).cpu.dbr = s.cpu.dbr := rfl
@[simp] theorem State.jump_cpu_pbr (s : State) (b : Byte) (o : Word) : (s.jump b o).cpu.pbr = b := rfl
@[simp] theorem State.jump_cpu_pc (s : State) (b : Byte) (o : Word) : (s.jump b o).cpu.pc = o := rfl
@[simp] theorem State.jump_cpu_p (s : State) (b : Byte) (o : Word) : (s.jump b o).cpu.p = s.cpu.p := rfl
@[simp] theorem State.jump_cpu_e (s : State) (b : Byte) (o : Word) : (s.jump b o).cpu.e = s.cpu.e := rfl

/-! ### setE -/

@[simp] theorem State.setE_halt (s : State) (b : Bool) : (s.setE b).halt = s.halt := rfl
@[simp] theorem State.setE_sched (s : State) (b : Bool) : (s.setE b).sched = s.sched := rfl
@[simp] theorem State.setE_pic (s : State) (b : Bool) : (s.setE b).pic = s.pic := rfl
@[simp] theorem State.setE_dots (s : State) (b : Bool) : (s.setE b).dots = s.dots := rfl
@[simp] theorem State.setE_mem (s : State) (b : Bool) : (s.setE b).mem = s.mem := rfl
@[simp] theorem State.setE_box (s : State) (b : Bool) : (s.setE b).box = s.box := rfl
@[simp] theorem State.setE_cfg (s : State) (b : Bool) : (s.setE b).cfg = s.cfg := rfl
@[simp] theorem State.setE_cpu_a (s : State) (b : Bool) : (s.setE b).cpu.a = s.cpu.a := rfl
@[simp] theorem State.setE_cpu_x (s : State) (b : Bool) : (s.setE b).cpu.x = s.cpu.x := rfl
@[simp] theorem State.setE_cpu_y (s : State) (b : Bool) : (s.setE b).cpu.y = s.cpu.y := rfl
@[simp] theorem State.setE_cpu_s (s : State) (b : Bool) : (s.setE b).cpu.s = s.cpu.s := rfl
@[simp] theorem State.setE_cpu_d (s : State) (b : Bool) : (s.setE b).cpu.d = s.cpu.d := rfl
@[simp] theorem State.setE_cpu_dbr (s : State) (b : Bool) : (s.setE b).cpu.dbr = s.cpu.dbr := rfl
@[simp] theorem State.setE_cpu_pbr (s : State) (b : Bool) : (s.setE b).cpu.pbr = s.cpu.pbr := rfl
@[simp] theorem State.setE_cpu_pc (s : State) (b : Bool) : (s.setE b).cpu.pc = s.cpu.pc := rfl
@[simp] theorem State.setE_cpu_p (s : State) (b : Bool) : (s.setE b).cpu.p = s.cpu.p := rfl
@[simp] theorem State.setE_cpu_e (s : State) (b : Bool) : (s.setE b).cpu.e = b := rfl

/-! ### setPFlag -/

@[simp] theorem State.setPFlag_halt (s : State) (f : Flag) (b : Bool) : (s.setPFlag f b).halt = s.halt := rfl
@[simp] theorem State.setPFlag_sched (s : State) (f : Flag) (b : Bool) : (s.setPFlag f b).sched = s.sched := rfl
@[simp] theorem State.setPFlag_pic (s : State) (f : Flag) (b : Bool) : (s.setPFlag f b).pic = s.pic := rfl
@[simp] theorem State.setPFlag_dots (s : State) (f : Flag) (b : Bool) : (s.setPFlag f b).dots = s.dots := rfl
@[simp] theorem State.setPFlag_mem (s : State) (f : Flag) (b : Bool) : (s.setPFlag f b).mem = s.mem := rfl
@[simp] theorem State.setPFlag_box (s : State) (f : Flag) (b : Bool) : (s.setPFlag f b).box = s.box := rfl
@[simp] theorem State.setPFlag_cfg (s : State) (f : Flag) (b : Bool) : (s.setPFlag f b).cfg = s.cfg := rfl
@[simp] theorem State.setPFlag_cpu_a (s : State) (f : Flag) (b : Bool) : (s.setPFlag f b).cpu.a = s.cpu.a := rfl
@[simp] theorem State.setPFlag_cpu_x (s : State) (f : Flag) (b : Bool) : (s.setPFlag f b).cpu.x = s.cpu.x := rfl
@[simp] theorem State.setPFlag_cpu_y (s : State) (f : Flag) (b : Bool) : (s.setPFlag f b).cpu.y = s.cpu.y := rfl
@[simp] theorem State.setPFlag_cpu_s (s : State) (f : Flag) (b : Bool) : (s.setPFlag f b).cpu.s = s.cpu.s := rfl
@[simp] theorem State.setPFlag_cpu_d (s : State) (f : Flag) (b : Bool) : (s.setPFlag f b).cpu.d = s.cpu.d := rfl
@[simp] theorem State.setPFlag_cpu_dbr (s : State) (f : Flag) (b : Bool) : (s.setPFlag f b).cpu.dbr = s.cpu.dbr := rfl
@[simp] theorem State.setPFlag_cpu_pbr (s : State) (f : Flag) (b : Bool) : (s.setPFlag f b).cpu.pbr = s.cpu.pbr := rfl
@[simp] theorem State.setPFlag_cpu_pc (s : State) (f : Flag) (b : Bool) : (s.setPFlag f b).cpu.pc = s.cpu.pc := rfl
@[simp] theorem State.setPFlag_cpu_p (s : State) (f : Flag) (b : Bool) : (s.setPFlag f b).cpu.p = setFlag s.cpu.p f b := rfl
@[simp] theorem State.setPFlag_cpu_e (s : State) (f : Flag) (b : Bool) : (s.setPFlag f b).cpu.e = s.cpu.e := rfl

/-! ### setNz -/

@[simp] theorem State.setNz_halt {n : Nat} (s : State) (v : BitVec n) : (s.setNz v).halt = s.halt := rfl
@[simp] theorem State.setNz_sched {n : Nat} (s : State) (v : BitVec n) : (s.setNz v).sched = s.sched := rfl
@[simp] theorem State.setNz_pic {n : Nat} (s : State) (v : BitVec n) : (s.setNz v).pic = s.pic := rfl
@[simp] theorem State.setNz_dots {n : Nat} (s : State) (v : BitVec n) : (s.setNz v).dots = s.dots := rfl
@[simp] theorem State.setNz_mem {n : Nat} (s : State) (v : BitVec n) : (s.setNz v).mem = s.mem := rfl
@[simp] theorem State.setNz_box {n : Nat} (s : State) (v : BitVec n) : (s.setNz v).box = s.box := rfl
@[simp] theorem State.setNz_cfg {n : Nat} (s : State) (v : BitVec n) : (s.setNz v).cfg = s.cfg := rfl
@[simp] theorem State.setNz_cpu_a {n : Nat} (s : State) (v : BitVec n) : (s.setNz v).cpu.a = s.cpu.a := rfl
@[simp] theorem State.setNz_cpu_x {n : Nat} (s : State) (v : BitVec n) : (s.setNz v).cpu.x = s.cpu.x := rfl
@[simp] theorem State.setNz_cpu_y {n : Nat} (s : State) (v : BitVec n) : (s.setNz v).cpu.y = s.cpu.y := rfl
@[simp] theorem State.setNz_cpu_s {n : Nat} (s : State) (v : BitVec n) : (s.setNz v).cpu.s = s.cpu.s := rfl
@[simp] theorem State.setNz_cpu_d {n : Nat} (s : State) (v : BitVec n) : (s.setNz v).cpu.d = s.cpu.d := rfl
@[simp] theorem State.setNz_cpu_dbr {n : Nat} (s : State) (v : BitVec n) : (s.setNz v).cpu.dbr = s.cpu.dbr := rfl
@[simp] theorem State.setNz_cpu_pbr {n : Nat} (s : State) (v : BitVec n) : (s.setNz v).cpu.pbr = s.cpu.pbr := rfl
@[simp] theorem State.setNz_cpu_pc {n : Nat} (s : State) (v : BitVec n) : (s.setNz v).cpu.pc = s.cpu.pc := rfl
@[simp] theorem State.setNz_cpu_p {n : Nat} (s : State) (v : BitVec n) : (s.setNz v).cpu.p = setnz s.cpu.p v := rfl
@[simp] theorem State.setNz_cpu_e {n : Nat} (s : State) (v : BitVec n) : (s.setNz v).cpu.e = s.cpu.e := rfl

/-! ### setReg -/

@[simp] theorem State.setReg_halt (s : State) (r : Reg) (v : Word) : (s.setReg r v).halt = s.halt := by cases r <;> rfl
@[simp] theorem State.setReg_sched (s : State) (r : Reg) (v : Word) : (s.setReg r v).sched = s.sched := by cases r <;> rfl
@[simp] theorem State.setReg_pic (s : State) (r : Reg) (v : Word) : (s.setReg r v).pic = s.pic := by cases r <;> rfl
@[simp] theorem State.setReg_dots (s : State) (r : Reg) (v : Word) : (s.setReg r v).dots = s.dots := by cases r <;> rfl
@[simp] theorem State.setReg_mem (s : State) (r : Reg) (v : Word) : (s.setReg r v).mem = s.mem := by cases r <;> rfl
@[simp] theorem State.setReg_box (s : State) (r : Reg) (v : Word) : (s.setReg r v).box = s.box := by cases r <;> rfl
@[simp] theorem State.setReg_cfg (s : State) (r : Reg) (v : Word) : (s.setReg r v).cfg = s.cfg := by cases r <;> rfl
@[simp] theorem State.setReg_cpu_s (s : State) (r : Reg) (v : Word) : (s.setReg r v).cpu.s = s.cpu.s := by cases r <;> rfl
@[simp] theorem State.setReg_cpu_d (s : State) (r : Reg) (v : Word) : (s.setReg r v).cpu.d = s.cpu.d := by cases r <;> rfl
@[simp] theorem State.setReg_cpu_dbr (s : State) (r : Reg) (v : Word) : (s.setReg r v).cpu.dbr = s.cpu.dbr := by cases r <;> rfl
@[simp] theorem State.setReg_cpu_pbr (s : State) (r : Reg) (v : Word) : (s.setReg r v).cpu.pbr = s.cpu.pbr := by cases r <;> rfl
@[simp] theorem State.setReg_cpu_pc (s : State) (r : Reg) (v : Word) : (s.setReg r v).cpu.pc = s.cpu.pc := by cases r <;> rfl
@[simp] theorem State.setReg_cpu_p (s : State) (r : Reg) (v : Word) : (s.setReg r v).cpu.p = s.cpu.p := by cases r <;> rfl
@[simp] theorem State.setReg_cpu_e (s : State) (r : Reg) (v : Word) : (s.setReg r v).cpu.e = s.cpu.e := by cases r <;> rfl
@[simp] theorem State.setReg_reg (s : State) (r : Reg) (v : Word) : (s.setReg r v).reg r = v := by cases r <;> rfl
theorem State.setReg_reg_ne (s : State) (r q : Reg) (v : Word) (h : q ≠ r) : (s.setReg r v).reg q = s.reg q := by
  cases r <;> cases q <;> first | rfl | exact absurd rfl h
@[simp] theorem State.setReg_a_cpu_a (s : State) (v : Word) : (s.setReg .a v).cpu.a = v := rfl
@[simp] theorem State.setReg_a_cpu_x (s : State) (v : Word) : (s.setReg .a v).cpu.x = s.cpu.x := rfl
@[simp] theorem State.setReg_a_cpu_y (s : State) (v : Word) : (s.setReg .a v).cpu.y = s.cpu.y := rfl
@[simp] theorem State.setReg_x_cpu_a (s : State) (v : Word) : (s.setReg .x v).cpu.a = s.cpu.a := rfl
@[simp] theorem State.setReg_x_cpu_x (s : State) (v : Word) : (s.setReg .x v).cpu.x = v := rfl
@[simp] theorem State.setReg_x_cpu_y (s : State) (v : Word) : (s.setReg .x v).cpu.y = s.cpu.y := rfl
@[simp] theorem State.setReg_y_cpu_a (s : State) (v : Word) : (s.setReg .y v).cpu.a = s.cpu.a := rfl
@[simp] theorem State.setReg_y_cpu_x (s : State) (v : Word) : (s.setReg .y v).cpu.x = s.cpu.x := rfl
@[simp] theorem State.setReg_y_cpu_y (s : State) (v : Word) : (s.setReg .y v).cpu.y = v := rfl

/-! ### setRegLo -/

@[simp] theorem State.setRegLo_halt (s : State) (r : Reg) (v : Byte) : (s.setRegLo r v).halt = s.halt := by cases r <;> rfl
@[simp] theorem State.setRegLo_sched (s : State) (r : Reg) (v : Byte) : (s.setRegLo r v).sched = s.sched := by cases r <;> rfl
@[simp] theorem State.setRegLo_pic (s : State) (r : Reg) (v : Byte) : (s.setRegLo r v).pic = s.pic := by cases r <;> rfl
@[simp] theorem State.setRegLo_dots (s : State) (r : Reg) (v : Byte) : (s.setRegLo r v).dots = s.dots := by cases r <;> rfl
@[simp] theorem State.setRegLo_mem (s : State) (r : Reg) (v : Byte) : (s.setRegLo r v).mem = s.mem := by cases r <;> rfl
@[simp] theorem State.setRegLo_box (s : State) (r : Reg) (v : Byte) : (s.setRegLo r v).box = s.box := by cases r <;> rfl
@[simp] theorem State.setRegLo_cfg (s : State) (r : Reg) (v : Byte) : (s.setRegLo r v).cfg = s.cfg := by cases r <;> rfl
@[simp] theorem State.setRegLo_cpu_s (s : State) (r : Reg) (v : Byte) : (s.setRegLo r v).cpu.s = s.cpu.s := by cases r <;> rfl
@[simp] theorem State.setRegLo_cpu_d (s : State) (r : Reg) (v : Byte) : (s.setRegLo r v).cpu.d = s.cpu.d := by cases r <;> rfl
@[simp] theorem State.setRegLo_cpu_dbr (s : State) (r : Reg) (v : Byte) : (s.setRegLo r v).cpu.dbr = s.cpu.dbr := by cases r <;> rfl
@[simp] theorem State.setRegLo_cpu_pbr (s : State) (r : Reg) (v : Byte) : (s.setRegLo r v).cpu.pbr = s.cpu.pbr := by cases r <;> rfl
@[simp] theorem State.setRegLo_cpu_pc (s : State) (r : Reg) (v : Byte) : (s.setRegLo r v).cpu.pc = s.cpu.pc := by cases r <;> rfl
@[simp] theorem State.setRegLo_cpu_p (s : State) (r : Reg) (v : Byte) : (s.setRegLo r v).cpu.p = s.cpu.p := by cases r <;> rfl
@[simp] theorem State.setRegLo_cpu_e (s : State) (r : Reg) (v : Byte) : (s.setRegLo r v).cpu.e = s.cpu.e := by cases r <;> rfl
@[simp] theorem State.setRegLo_reg (s : State) (r : Reg) (v : Byte) : (s.setRegLo r v).reg r = setLo (s.reg r) v := by cases r <;> rfl
theorem State.setRegLo_reg_ne (s : State) (r q : Reg) (v : Byte) (h : q ≠ r) : (s.setRegLo r v).reg q = s.reg q := by
  cases r <;> cases q <;> first | rfl | exact absurd rfl h
@[simp] theorem State.setRegLo_a_cpu_a (s : State) (v : Byte) : (s.setRegLo .a v).cpu.a = setLo s.cpu.a v := rfl
@[simp] theorem State.setRegLo_a_cpu_x (s : State) (v : Byte) : (s.setRegLo .a v).cpu.x = s.cpu.x := rfl
@[simp] theorem State.setRegLo_a_cpu_y (s : State) (v : Byte) : (s.setRegLo .a v).cpu.y = s.cpu.y := rfl
@[simp] theorem State.setRegLo_x_cpu_a (s : State) (v : Byte) : (s.setRegLo .x v).cpu.a = s.cpu.a := rfl
@[simp] theorem State.setRegLo_x_cpu_x (s : State) (v : Byte) : (s.setRegLo .x v).cpu.x = setLo s.cpu.x v := rfl
@[simp] theorem State.setRegLo_x_cpu_y (s : State) (v : Byte) : (s.setRegLo .x v).cpu.y = s.cpu.y := rfl
@[simp] theorem State.setRegLo_y_cpu_a (s : State) (v : Byte) : (s.setRegLo .y v).cpu.a = s.cpu.a := rfl
@[simp] theorem State.setRegLo_y_cpu_x (s : State) (v : Byte) : (s.setRegLo .y v).cpu.x = s.cpu.x := rfl
@[simp] theorem State.setRegLo_y_cpu_y (s : State) (v : Byte) : (s.setRegLo .y v).cpu.y = setLo s.cpu.y v := rfl

/-! ### setHidden, withApu -/

@[simp] theorem State.setHidden_cpu (s : State) (n : Nat) : (s.setHidden n).cpu = s.cpu := rfl
@[simp] theorem State.setHidden_halt (s : State) (n : Nat) : (s.setHidden n).halt = s.halt := rfl
@[simp] theorem State.setHidden_sched (s : State) (n : Nat) : (s.setHidden n).sched = s.sched := rfl
@[simp] theorem State.setHidden_pic (s : State) (n : Nat) : (s.setHidden n).pic = s.pic := rfl
@[simp] theorem State.setHidden_dots (s : State) (n : Nat) : (s.setHidden n).dots = s.dots := rfl
@[simp] theorem State.setHidden_mem (s : State) (n : Nat) : (s.setHidden n).mem = s.mem := rfl
@[simp] theorem State.setHidden_cfg (s : State) (n : Nat) : (s.setHidden n).cfg = s.cfg := rfl
@[simp] theorem State.setHidden_box (s : State) (n : Nat) : (s.setHidden n).box = { s.box with hidden := n } := rfl

@[simp] theorem State.withApu_cpu (s : State) (p : Int × Nat) : (s.withApu p).cpu = s.cpu := rfl
@[simp] theorem State.withApu_halt (s : State) (p : Int × Nat) : (s.withApu p).halt = s.halt := rfl
@[simp] theorem State.withApu_pic (s : State) (p : Int × Nat) : (s.withApu p).pic = s.pic := rfl
@[simp] theorem State.withApu_dots (s : State) (p : Int × Nat) : (s.withApu p).dots = s.dots := rfl
@[simp] theorem State.withApu_mem (s : State) (p : Int × Nat) : (s.withApu p).mem = s.mem := rfl
@[simp] theorem State.withApu_cfg (s : State) (p : Int × Nat) : (s.withApu p).cfg = s.cfg := rfl
@[simp] theorem State.withApu_sched (s : State) (p : Int × Nat) : (s.withApu p).sched = { s.sched with apuDebt := p.1 } := rfl
@[simp] theorem State.withApu_box (s : State) (p : Int × Nat) : (s.withApu p).box = { s.box with hidden := p.2 } := rfl
@[simp] theorem State.withApu_withApu (s : State) (p q : Int × Nat) : (s.withApu p).withApu q = s.withApu q := rfl

/-! ### storeByte -/

@[simp] theorem State.storeByte_cpu (s : State) (b : Byte) (o : Word) (v : Byte) : (s.storeByte b o v).cpu = s.cpu := rfl
@[simp] theorem State.storeByte_halt (s : State) (b : Byte) (o : Word) (v : Byte) : (s.storeByte b o v).halt = s.halt := rfl
@[simp] theorem State.storeByte_sched (s : State) (b : Byte) (o : Word) (v : Byte) : (s.storeByte b o v).sched = s.sched := rfl
@[simp] theorem State.storeByte_pic (s : State) (b : Byte) (o : Word) (v : Byte) : (s.storeByte b o v).pic = s.pic := rfl
@[simp] theorem State.storeByte_dots (s : State) (b : Byte) (o : Word) (v : Byte) : (s.storeByte b o v).dots = s.dots := rfl
@[simp] theorem State.storeByte_box (s : State) (b : Byte) (o : Word) (v : Byte) : (s.storeByte b o v).box = s.box := rfl
@[simp] theorem State.storeByte_cfg (s : State) (b : Byte) (o : Word) (v : Byte) : (s.storeByte b o v).cfg = s.cfg := rfl
@[simp] theorem State.storeByte_mem (s : State) (b : Byte) (o : Word) (v : Byte) : (s.storeByte b o v).mem = bytesWrite s.mem (s.busAddr b o) v := rfl

/-! ### stealCycles -/

@[simp] theorem State.stealCycles_cpu (s : State) (n : Nat) : (s.stealCycles n).cpu = s.cpu := rfl
@[simp] theorem State.stealCycles_halt (s : State) (n : Nat) : (s.stealCycles n).halt = s.halt := rfl
@[simp] theorem State.stealCycles_pic (s : State) (n : Nat) : (s.stealCycles n).pic = s.pic := rfl
@[simp] theorem State.stealCycles_dots (s : State) (n : Nat) : (s.stealCycles n).dots = s.dots := rfl
@[simp] theorem State.stealCycles_mem (s : State) (n : Nat) : (s.stealCycles n).mem = s.mem := rfl
@[simp] theorem State.stealCycles_box (s : State) (n : Nat) : (s.stealCycles n).box = s.box := rfl
@[simp] theorem State.stealCycles_cfg (s : State) (n : Nat) : (s.stealCycles n).cfg = s.cfg := rfl
@[simp] theorem State.stealCycles_sched (s : State) (n : Nat) : (s.stealCycles n).sched = { s.sched with dmaCycles := s.sched.dmaCycles + n } := rfl

/-! ### clearDma -/

@[simp] theorem State.clearDma_cpu (s : State) : (s.clearDma).cpu = s.cpu := rfl
@[simp] theorem State.clearDma_halt (s : State) : (s.clearDma).halt = s.halt := rfl
@[simp] theorem State.clearDma_pic (s : State) : (s.clearDma).pic = s.pic := rfl
@[simp] theorem State.clearDma_dots (s : State) : (s.clearDma).dots = s.dots := rfl
@[simp] theorem State.clearDma_mem (s : State) : (s.clearDma).mem = s.mem := rfl
@[simp] theorem State.clearDma_box (s : State) : (s.clearDma).box = s.box := rfl
@[simp] theorem State.clearDma_cfg (s : State) : (s.clearDma).cfg = s.cfg := rfl
@[simp] theorem State.clearDma_sched (s : State) : (s.clearDma).sched = { s.sched with dmaCycles := 0 } := rfl

/-! ### charge -/

@[simp] theorem State.charge_cpu (s : State) (n : Nat) : (s.charge n).cpu = s.cpu := rfl
@[simp] theorem State.charge_halt (s : State) (n : Nat) : (s.charge n).halt = s.halt := rfl
@[simp] theorem State.charge_pic (s : State) (n : Nat) : (s.charge n).pic = s.pic := rfl
@[simp] theorem State.charge_dots (s : State) (n : Nat) : (s.charge n).dots = s.dots := rfl
@[simp] theorem State.charge_mem (s : State) (n : Nat) : (s.charge n).mem = s.mem := rfl
@[simp] theorem State.charge_box (s : State) (n : Nat) : (s.charge n).box = s.box := rfl
@[simp] theorem State.charge_cfg (s : State) (n : Nat) : (s.charge n).cfg = s.cfg := rfl
@[simp] theorem State.charge_sched (s : State) (n : Nat) : (s.charge n).sched = { s.sched with
      master := s.sched.master + n, apuDebt := s.sched.apuDebt + n, ppuDebt := s.sched.ppuDebt + n } := rfl

/-! ### payDots -/

@[simp] theorem State.payDots_cpu (s : State) (n : Nat) : (s.payDots n).cpu = s.cpu := rfl
@[simp] theorem State.payDots_halt (s : State) (n : Nat) : (s.payDots n).halt = s.halt := rfl
@[simp] theorem State.payDots_pic (s : State) (n : Nat) : (s.payDots n).pic = s.pic := rfl
@[simp] theorem State.payDots_dots (s : State) (n : Nat) : (s.payDots n).dots = s.dots := rfl
@[simp] theorem State.payDots_mem (s : State) (n : Nat) : (s.payDots n).mem = s.mem := rfl
@[simp] theorem State.payDots_box (s : State) (n : Nat) : (s.payDots n).box = s.box := rfl
@[simp] theorem State.payDots_cfg (s : State) (n : Nat) : (s.payDots n).cfg = s.cfg := rfl
@[simp] theorem State.payDots_sched (s : State) (n : Nat) : (s.payDots n).sched = { s.sched with ppuDebt := s.sched.ppuDebt - n } := rfl

/-! ### markIrq -/

@[simp] theorem State.markIrq_cpu (s : State) : (s.markIrq).cpu = s.cpu := rfl
@[simp] theorem State.markIrq_halt (s : State) : (s.markIrq).halt = s.halt := rfl
@[simp] theorem State.markIrq_pic (s : State) : (s.markIrq).pic = s.pic := rfl
@[simp] theorem State.markIrq_dots (s : State) : (s.markIrq).dots = s.dots := rfl
@[simp] theorem State.markIrq_mem (s : State) : (s.markIrq).mem = s.mem := rfl
@[simp] theorem State.markIrq_box (s : State) : (s.markIrq).box = s.box := rfl
@[simp] theorem State.markIrq_cfg (s : State) : (s.markIrq).cfg = s.cfg := rfl
@[simp] theorem State.markIrq_sched (s : State) : (s.markIrq).sched = { s.sched with irqPending := true } := rfl

/-! ### halted -/

@[simp] theorem State.halted_cpu (s : State) (f : Fault) : (s.halted f).cpu = s.cpu := rfl
@[simp] theorem State.halted_sched (s : State) (f : Fault) : (s.halted f).sched = s.sched := rfl
@[simp] theorem State.halted_pic (s : State) (f : Fault) : (s.halted f).pic = s.pic := rfl
@[simp] theorem State.halted_dots (s : State) (f : Fault) : (s.halted f).dots = s.dots := rfl
@[simp] theorem State.halted_mem (s : State) (f : Fault) : (s.halted f).mem = s.mem := rfl
@[simp] theorem State.halted_box (s : State) (f : Fault) : (s.halted f).box = s.box := rfl
@[simp] theorem State.halted_cfg (s : State) (f : Fault) : (s.halted f).cfg = s.cfg := rfl
@[simp] theorem State.halted_halt (s : State) (f : Fault) : (s.halted f).halt = some f := rfl

/-! ### setPixel -/

@[simp] theorem State.setPixel_cpu (s : State) (l x : Nat) (c : Rgb) : (s.setPixel l x c).cpu = s.cpu := rfl
@[simp] theorem State.setPixel_halt (s : State) (l x : Nat) (c : Rgb) : (s.setPixel l x c).halt = s.halt := rfl
@[simp] theorem State.setPixel_sched (s : State) (l x : Nat) (c : Rgb) : (s.setPixel l x c).sched = s.sched := rfl
@[simp] theorem State.setPixel_pic (s : State) (l x : Nat) (c : Rgb) : (s.setPixel l x c).pic = s.pic := rfl
@[simp] theorem State.setPixel_mem (s : State) (l x : Nat) (c : Rgb) : (s.setPixel l x c).mem = s.mem := rfl
@[simp] theorem State.setPixel_box (s : State) (l x : Nat) (c : Rgb) : (s.setPixel l x c).box = s.box := rfl
@[simp] theorem State.setPixel_cfg (s : State) (l x : Nat) (c : Rgb) : (s.setPixel l x c).cfg = s.cfg := rfl
@[simp] theorem State.setPixel_dots (s : State) (l x : Nat) (c : Rgb) : (s.setPixel l x c).dots = { s.dots with
      frame := cellPut (l * s.cfg.geometry.visibleW + x) c s.dots.frame } := rfl

/-! ### inputLatch, dotMove, rebuild, storeEnables -/

@[simp] theorem inputLatch_cpu (s : State) : (inputLatch s).cpu = s.cpu := rfl
@[simp] theorem inputLatch_halt (s : State) : (inputLatch s).halt = s.halt := rfl
@[simp] theorem inputLatch_sched (s : State) : (inputLatch s).sched = s.sched := rfl
@[simp] theorem inputLatch_pic (s : State) : (inputLatch s).pic = s.pic := rfl
@[simp] theorem inputLatch_dots (s : State) : (inputLatch s).dots = s.dots := rfl
@[simp] theorem inputLatch_mem (s : State) : (inputLatch s).mem = s.mem := rfl
@[simp] theorem inputLatch_cfg (s : State) : (inputLatch s).cfg = s.cfg := rfl

@[simp] theorem dotMove_cpu (s : State) : (dotMove s).cpu = s.cpu := rfl
@[simp] theorem dotMove_halt (s : State) : (dotMove s).halt = s.halt := rfl
@[simp] theorem dotMove_sched (s : State) : (dotMove s).sched = s.sched := rfl
@[simp] theorem dotMove_pic (s : State) : (dotMove s).pic = s.pic := rfl
@[simp] theorem dotMove_mem (s : State) : (dotMove s).mem = s.mem := rfl
@[simp] theorem dotMove_box (s : State) : (dotMove s).box = s.box := rfl
@[simp] theorem dotMove_cfg (s : State) : (dotMove s).cfg = s.cfg := rfl

@[simp] theorem rebuild_cpu (l : Nat) (s : State) : (rebuild l s).cpu = s.cpu := rfl
@[simp] theorem rebuild_halt (l : Nat) (s : State) : (rebuild l s).halt = s.halt := rfl
@[simp] theorem rebuild_sched (l : Nat) (s : State) : (rebuild l s).sched = s.sched := rfl
@[simp] theorem rebuild_pic (l : Nat) (s : State) : (rebuild l s).pic = s.pic := rfl
@[simp] theorem rebuild_mem (l : Nat) (s : State) : (rebuild l s).mem = s.mem := rfl
@[simp] theorem rebuild_box (l : Nat) (s : State) : (rebuild l s).box = s.box := rfl
@[simp] theorem rebuild_cfg (l : Nat) (s : State) : (rebuild l s).cfg = s.cfg := rfl

@[simp] theorem storeEnables_cpu (n h d v : Byte) (s : State) : (storeEnables n h d v s).cpu = s.cpu := rfl
@[simp] theorem storeEnables_halt (n h d v : Byte) (s : State) : (storeEnables n h d v s).halt = s.halt := rfl
@[simp] theorem storeEnables_pic (n h d v : Byte) (s : State) : (storeEnables n h d v s).pic = s.pic := rfl
@[simp] theorem storeEnables_dots (n h d v : Byte) (s : State) : (storeEnables n h d v s).dots = s.dots := rfl
@[simp] theorem storeEnables_mem (n h d v : Byte) (s : State) : (storeEnables n h d v s).mem = s.mem := rfl
@[simp] theorem storeEnables_box (n h d v : Byte) (s : State) : (storeEnables n h d v s).box = s.box := rfl
@[simp] theorem storeEnables_cfg (n h d v : Byte) (s : State) : (storeEnables n h d v s).cfg = s.cfg := rfl

@[simp] theorem onHblank_eq (s : State) : onHblank s = s := rfl

/-! ### Derived readings -/

@[simp] theorem State.setS_m8 (s : State) (v : Word) : (s.setS v).m8 = s.m8 := rfl
@[simp] theorem State.setS_x8 (s : State) (v : Word) : (s.setS v).x8 = s.x8 := rfl
@[simp] theorem State.setS_xi (s : State) (v : Word) : (s.setS v).xi = s.xi := rfl
@[simp] theorem State.setS_yi (s : State) (v : Word) : (s.setS v).yi = s.yi := rfl
@[simp] theorem State.setS_narrow (s : State) (v : Word) (r : Reg) : (s.setS v).narrow r = s.narrow r := by cases r <;> rfl
@[simp] theorem State.setS_reg (s : State) (v : Word) (r : Reg) : (s.setS v).reg r = s.reg r := by cases r <;> rfl
@[simp] theorem State.setD_m8 (s : State) (v : Word) : (s.setD v).m8 = s.m8 := rfl
@[simp] theorem State.setD_x8 (s : State) (v : Word) : (s.setD v).x8 = s.x8 := rfl
@[simp] theorem State.setD_xi (s : State) (v : Word) : (s.setD v).xi = s.xi := rfl
@[simp] theorem State.setD_yi (s : State) (v : Word) : (s.setD v).yi = s.yi := rfl
@[simp] theorem State.setD_narrow (s : State) (v : Word) (r : Reg) : (s.setD v).narrow r = s.narrow r := by cases r <;> rfl
@[simp] theorem State.setD_reg (s : State) (v : Word) (r : Reg) : (s.setD v).reg r = s.reg r := by cases r <;> rfl
@[simp] theorem State.setDbr_m8 (s : State) (v : Byte) : (s.setDbr v).m8 = s.m8 := rfl
@[simp] theorem State.setDbr_x8 (s : State) (v : Byte) : (s.setDbr v).x8 = s.x8 := rfl
@[simp] theorem State.setDbr_xi (s : State) (v : Byte) : (s.setDbr v).xi = s.xi := rfl
@[simp] theorem State.setDbr_yi (s : State) (v : Byte) : (s.setDbr v).yi = s.yi := rfl
@[simp] theorem State.setDbr_narrow (s : State) (v : Byte) (r : Reg) : (s.setDbr v).narrow r = s.narrow r := by cases r <;> rfl
@[simp] theorem State.setDbr_reg (s : State) (v : Byte) (r : Reg) : (s.setDbr v).reg r = s.reg r := by cases r <;> rfl
@[simp] theorem State.setPc_m8 (s : State) (v : Word) : (s.setPc v).m8 = s.m8 := rfl
@[simp] theorem State.setPc_x8 (s : State) (v : Word) : (s.setPc v).x8 = s.x8 := rfl
@[simp] theorem State.setPc_xi (s : State) (v : Word) : (s.setPc v).xi = s.xi := rfl
@[simp] theorem State.setPc_yi (s : State) (v : Word) : (s.setPc v).yi = s.yi := rfl
@[simp] theorem State.setPc_narrow (s : State) (v : Word) (r : Reg) : (s.setPc v).narrow r = s.narrow r := by cases r <;> rfl
@[simp] theorem State.setPc_reg (s : State) (v : Word) (r : Reg) : (s.setPc v).reg r = s.reg r := by cases r <;> rfl
@[simp] theorem State.jump_m8 (s : State) (b : Byte) (o : Word) : (s.jump b o).m8 = s.m8 := rfl
@[simp] theorem State.jump_x8 (s : State) (b : Byte) (o : Word) : (s.jump b o).x8 = s.x8 := rfl
@[simp] theorem State.jump_xi (s : State) (b : Byte) (o : Word) : (s.jump b o).xi = s.xi := rfl
@[simp] theorem State.jump_yi (s : State) (b : Byte) (o : Word) : (s.jump b o).yi = s.yi := rfl
@[simp] theorem State.jump_narrow (s : State) (b : Byte) (o : Word) (r : Reg) : (s.jump b o).narrow r = s.narrow r := by cases r <;> rfl
@[simp] theorem State.jump_reg (s : State) (b : Byte) (o : Word) (r : Reg) : (s.jump b o).reg r = s.reg r := by cases r <;> rfl
@[simp] theorem State.storeByte_m8 (s : State) (b : Byte) (o : Word) (v : Byte) : (s.storeByte b o v).m8 = s.m8 := rfl
@[simp] theorem State.storeByte_x8 (s : State) (b : Byte) (o : Word) (v : Byte) : (s.storeByte b o v).x8 = s.x8 := rfl
@[simp] theorem State.storeByte_xi (s : State) (b : Byte) (o : Word) (v : Byte) : (s.storeByte b o v).xi = s.xi := rfl
@[simp] theorem State.storeByte_yi (s : State) (b : Byte) (o : Word) (v : Byte) : (s.storeByte b o v).yi = s.yi := rfl
@[simp] theorem State.storeByte_narrow (s : State) (b : Byte) (o : Word) (v : Byte) (r : Reg) : (s.storeByte b o v).narrow r = s.narrow r := by cases r <;> rfl
@[simp] theorem State.storeByte_reg (s : State) (b : Byte) (o : Word) (v : Byte) (r : Reg) : (s.storeByte b o v).reg r = s.reg r := by cases r <;> rfl
@[simp] theorem State.clearDma_m8 (s : State) : (s.clearDma).m8 = s.m8 := rfl
@[simp] theorem State.clearDma_x8 (s : State) : (s.clearDma).x8 = s.x8 := rfl
@[simp] theorem State.clearDma_xi (s : State) : (s.clearDma).xi = s.xi := rfl
@[simp] theorem State.clearDma_yi (s : State) : (s.clearDma).yi = s.yi := rfl
@[simp] theorem State.clearDma_narrow (s : State) (r : Reg) : (s.clearDma).narrow r = s.narrow r := by cases r <;> rfl
@[simp] theorem State.clearDma_reg (s : State) (r : Reg) : (s.clearDma).reg r = s.reg r := by cases r <;> rfl

/-- The bus map depends on the parameters alone. -/
theorem State.busAddr_congr {s t : State} (h : t.cfg = s.cfg) (b : Byte) (o : Word) :
    t.busAddr b o = s.busAddr b o := by simp only [State.busAddr, h]

theorem State.window_congr {s t : State} (h : t.cfg = s.cfg) (b : Byte) (o : Word) :
    t.window b o = s.window b o := by simp only [State.window, h]

theorem State.byteAt_congr {s t : State} (h : t.cfg = s.cfg) (hm : t.mem = s.mem) (b : Byte) (o : Word) :
    t.byteAt b o = s.byteAt b o := by simp only [State.byteAt, State.busAddr, h, hm]

theorem State.opRow_congr {s t : State} (h : t.cfg = s.cfg) (op : Byte) : t.opRow op = s.opRow op := by
  simp only [State.opRow, h]

/-- The widths depend on E and P alone. -/
theorem State.m8_congr {s t : State} (he : t.cpu.e = s.cpu.e) (hp : t.cpu.p = s.cpu.p) : t.m8 = s.m8 := by
  simp only [State.m8, he, hp]

theorem State.x8_congr {s t : State} (he : t.cpu.e = s.cpu.e) (hp : t.cpu.p = s.cpu.p) : t.x8 = s.x8 := by
  simp only [State.x8, he, hp]

theorem State.narrow_congr {s t : State} (h : t.cpu = s.cpu) (r : Reg) : t.narrow r = s.narrow r := by
  cases r <;> simp only [State.narrow, State.m8, State.x8, h]

theorem State.reg_congr {s t : State} (h : t.cpu = s.cpu) (r : Reg) : t.reg r = s.reg r := by
  cases r <;> simp only [State.reg, h]

theorem State.xi_congr {s t : State} (h : t.cpu = s.cpu) : t.xi = s.xi := by unfold State.xi State.x8; rw [h]

theorem State.yi_congr {s t : State} (h : t.cpu = s.cpu) : t.yi = s.yi := by unfold State.yi State.x8; rw [h]

end Sys2Proof.Machine
end

