-- ==== Sys2Proof/Laws/Word.lean ====
section
/-! SUPPORT. The byte-order helpers: halves of a word, their values as numbers, extension. -/

namespace Sys2Proof

theorem word_toNat (h l : Byte) : (word h l).toNat = h.toNat * 256 + l.toNat := by
  have hl := l.isLt
  simp only [word, BitVec.toNat_append, Nat.shiftLeft_eq]
  rw [show (2 : Nat) ^ 8 = 256 by rfl] at *
  rw [Nat.mul_comm, show (256 : Nat) = 2 ^ 8 by rfl, ← Nat.two_pow_add_eq_or_of_lt hl]

theorem lo_toNat (w : Word) : (lo w).toNat = w.toNat % 256 := by
  simp [lo, BitVec.extractLsb'_toNat]

theorem hi_toNat (w : Word) : (hi w).toNat = w.toNat / 256 := by
  have := w.isLt
  simp only [hi, BitVec.extractLsb'_toNat, Nat.shiftRight_eq_div_pow]
  omega

@[simp] theorem lo_word (h l : Byte) : lo (word h l) = l := by
  apply BitVec.eq_of_toNat_eq; have := l.isLt; rw [lo_toNat, word_toNat]; omega

@[simp] theorem hi_word (h l : Byte) : hi (word h l) = h := by
  apply BitVec.eq_of_toNat_eq; have := l.isLt; rw [hi_toNat, word_toNat]; omega

@[simp] theorem word_hi_lo (w : Word) : word (hi w) (lo w) = w := by
  apply BitVec.eq_of_toNat_eq; rw [word_toNat, lo_toNat, hi_toNat]; omega

theorem lo_eq_setWidth (w : Word) : w.setWidth 8 = lo w := by
  apply BitVec.eq_of_toNat_eq; simp [lo_toNat]

theorem hi_eq_shift (w : Word) : (w >>> 8).setWidth 8 = hi w := by
  apply BitVec.eq_of_toNat_eq
  have := w.isLt
  simp only [hi_toNat, BitVec.toNat_setWidth, BitVec.toNat_ushiftRight, Nat.shiftRight_eq_div_pow]
  omega

@[simp] theorem lo_setLo (w : Word) (b : Byte) : lo (setLo w b) = b := by simp [setLo]

@[simp] theorem hi_setLo (w : Word) (b : Byte) : hi (setLo w b) = hi w := by simp [setLo]

@[simp] theorem zext16_toNat (b : Byte) : (zext16 b).toNat = b.toNat := by
  have := b.isLt
  simp only [zext16, BitVec.toNat_setWidth]; omega

@[simp] theorem lo_zext16 (b : Byte) : lo (zext16 b) = b := by
  apply BitVec.eq_of_toNat_eq; have := b.isLt; simp only [lo_toNat, zext16_toNat]; omega

theorem sext16_toInt (b : Byte) : (sext16 b).toInt = b.toInt := by
  simp [sext16, BitVec.toInt_signExtend_of_le]

/-- A word is the number its two bytes make. -/
theorem eq_word_of_toNat {v : Word} {h l : Byte} (e : v.toNat = h.toNat * 256 + l.toNat) : v = word h l :=
  BitVec.eq_of_toNat_eq (by rw [e, word_toNat])

end Sys2Proof
end

