-- ==== Sys2Proof/Laws/Bus.lean ====
section
/-! SUPPORT. Sequencing, and what the bus can do: one lemma per operation that says everything an answer implies,
with the devices, the enable registers and DMA included; and the equations on plain memory. -/

namespace Sys2Proof.Machine

/-! ### Sequencing -/

@[simp] theorem readThen_ok {α β : Type} (a : α) (s : State) (k : α → State → Except Fault β) :
    readThen (.ok (a, s)) k = k a s := rfl

@[simp] theorem readThen_error {α β : Type} (f : Fault) (k : α → State → Except Fault β) :
    readThen (.error f) k = .error f := rfl

@[simp] theorem writeThen_ok {β : Type} (s : State) (k : State → Except Fault β) :
    writeThen (.ok s) k = k s := rfl

@[simp] theorem writeThen_error {β : Type} (f : Fault) (k : State → Except Fault β) :
    writeThen (.error f) k = .error f := rfl

theorem readThen_eq_ok {α β : Type} {r : Except Fault (α × State)} {k : α → State → Except Fault β} {b : β} :
    readThen r k = .ok b ↔ ∃ a s, r = .ok (a, s) ∧ k a s = .ok b := by
  rcases r with f | ⟨a, s⟩ <;> simp [readThen]

theorem writeThen_eq_ok {β : Type} {r : Except Fault State} {k : State → Except Fault β} {b : β} :
    writeThen r k = .ok b ↔ ∃ s, r = .ok s ∧ k s = .ok b := by
  rcases r with f | s <;> simp [writeThen]

@[simp] theorem finish_ok (s : State) : finish (.ok s) = .next s := rfl

@[simp] theorem finish_error (f : Fault) : finish (.error f) = .fault f := rfl

theorem finish_eq_next {r : Except Fault State} {t : State} : finish r = .next t ↔ r = .ok t := by
  rcases r with f | s <;> simp [finish]

theorem finish_eq_fault {r : Except Fault State} {f : Fault} : finish r = .fault f ↔ r = .error f := by
  rcases r with g | s <;> simp [finish]

/-! ### What operations keep -/

theorem SameClock.refl (s : State) : SameClock s s := ⟨rfl, rfl, rfl, rfl, rfl, rfl, rfl, rfl, rfl, rfl⟩

theorem SameClock.trans {s t u : State} (h : SameClock s t) (k : SameClock t u) : SameClock s u :=
  ⟨k.halt.trans h.halt, k.cfg.trans h.cfg, k.master.trans h.master, k.apuDebt.trans h.apuDebt,
    k.ppuDebt.trans h.ppuDebt, k.dotH.trans h.dotH, k.dotV.trans h.dotV, k.tiles.trans h.tiles,
    k.tilesLine.trans h.tilesLine, k.frame.trans h.frame⟩

/-- VRAM is in canonical form. -/
def State.VramWf (s : State) : Prop := 0 < s.cfg.vramBytes → bytesWf s.cfg.vramBytes s.pic.vram

/-- The clock is kept, and the canonical forms of memory and VRAM. -/
structure Kept (s t : State) : Prop where
  clock : SameClock s t
  mem   : Memory.wf s.mem → Memory.wf t.mem
  vram  : s.VramWf → t.VramWf

/-- What a bus store can do. -/
structure Touched (s t : State) : Prop extends Kept s t where
  cpu : t.cpu = s.cpu

/-- What a bus load can do: a device it reaches may write memory, unless the bus is quiet. -/
structure Loaded (s t : State) : Prop extends Touched s t where
  sameMem : s.Quiet → t.mem = s.mem
  dma     : t.sched.dmaCycles = s.sched.dmaCycles

theorem Kept.refl (s : State) : Kept s s := ⟨SameClock.refl s, id, id⟩

theorem Kept.trans {s t u : State} (h : Kept s t) (k : Kept t u) : Kept s u :=
  ⟨h.clock.trans k.clock, k.mem ∘ h.mem, k.vram ∘ h.vram⟩

theorem Touched.refl (s : State) : Touched s s := ⟨Kept.refl s, rfl⟩

theorem Touched.trans {s t u : State} (h : Touched s t) (k : Touched t u) : Touched s u :=
  ⟨h.toKept.trans k.toKept, k.cpu.trans h.cpu⟩

theorem Loaded.refl (s : State) : Loaded s s := ⟨Touched.refl s, fun _ => rfl, rfl⟩

/-- Whether the bus is quiet depends on the parameters alone. -/
theorem quiet_congr {s t : State} (h : t.cfg = s.cfg) : t.Quiet ↔ s.Quiet := by simp only [State.Quiet, h]

theorem NoDevices.quiet {s : State} (h : s.NoDevices) : s.Quiet := .inl fun w hw => .inl (h w hw)

/-- Memory kept by two parts of an operation, each on a quiet bus. -/
theorem quiet_trans {s t u : State} (k : Kept s t) (h : s.Quiet → t.mem = s.mem) (h' : t.Quiet → u.mem = t.mem) :
    s.Quiet → u.mem = s.mem := fun q => (h' ((quiet_congr k.clock.cfg).mpr q)).trans (h q)

theorem Loaded.trans {s t u : State} (h : Loaded s t) (k : Loaded t u) : Loaded s u :=
  ⟨h.toTouched.trans k.toTouched, quiet_trans h.toKept h.sameMem k.sameMem, k.dma.trans h.dma⟩

/-- An update of CPU registers alone. -/
theorem Kept.of_fields {s t : State} (h1 : t.halt = s.halt) (h2 : t.sched = s.sched) (h3 : t.pic = s.pic)
    (h4 : t.dots = s.dots) (h5 : t.mem = s.mem) (h6 : t.cfg = s.cfg) : Kept s t :=
  ⟨⟨h1, h6, by rw [h2], by rw [h2], by rw [h2], by rw [h4], by rw [h4], by rw [h4], by rw [h4], by rw [h4]⟩,
    fun h => by rw [h5]; exact h, fun h => by simpa only [State.VramWf, h3, h6] using h⟩

theorem SameSurroundings.kept {s t : State} (h : SameSurroundings s t) (hm : t.mem = s.mem) : Kept s t :=
  Kept.of_fields h.halt h.sched h.pic h.dots hm h.cfg

theorem SameSurroundings.refl (s : State) : SameSurroundings s s := ⟨rfl, rfl, rfl, rfl, rfl, rfl⟩

theorem SameSurroundings.trans {s t u : State} (h : SameSurroundings s t) (k : SameSurroundings t u) :
    SameSurroundings s u :=
  ⟨k.halt.trans h.halt, k.sched.trans h.sched, k.pic.trans h.pic, k.dots.trans h.dots, k.box.trans h.box,
    k.cfg.trans h.cfg⟩

/-! ### Addresses -/

theorem addr24_lt (b : Byte) (o : Word) : addr24 b o < addressSpace := by
  have := b.isLt; have := o.isLt; simp only [addr24, addressSpace]; omega

theorem backed_lt (m : BusMap) (a : Nat) : backed m a < addressSpace := by
  unfold backed
  split <;> exact Nat.mod_lt _ (by decide)

theorem busAddr_lt (s : State) (b : Byte) (o : Word) : s.busAddr b o < addressSpace := backed_lt _ _

/-- Where working RAM lies, the mirrored banks name its first 8 KB; elsewhere an address is asked for as it is (20
R64). -/
theorem mapAddr_mirrored {m : BusMap} {r : Nat} {b : Byte} {o : Word} (hm : m.mirror = some r)
    (h : mirrored b o = true) : mapAddr m b o = r + o.toNat := by simp [mapAddr, hm, h]

theorem mapAddr_other {m : BusMap} {b : Byte} {o : Word} (h : m.mirror = none ∨ mirrored b o = false) :
    mapAddr m b o = addr24 b o := by
  rcases h with h | h
  · simp [mapAddr, h]
  · unfold mapAddr; split <;> simp [h]

/-- Over a bus whose windows lie behind it where they lie on it, a byte is the address asked for. -/
theorem backed_flat {m : BusMap} (h : ∀ w ∈ m.windows, w.backing = w.base) (a : Nat) :
    backed m a = a % addressSpace := by
  unfold backed
  split
  · rfl
  · rename_i w hw
    have hm := List.mem_of_find?_eq_some hw
    have hp := List.find?_some hw
    simp only [Bool.and_eq_true, decide_eq_true_eq] at hp
    rw [h w hm, Nat.add_sub_of_le hp.1]

theorem addr24_inj {b b' : Byte} {o o' : Word} (h : addr24 b o = addr24 b' o') : b = b' ∧ o = o' := by
  have := o.isLt; have := o'.isLt
  simp only [addr24] at h
  exact ⟨BitVec.eq_of_toNat_eq (by omega), BitVec.eq_of_toNat_eq (by omega)⟩

/-! ### Devices -/

theorem deviceWrite_touched (w : DeviceWrite) (s : State) : Touched s (deviceWrite w s) := by
  cases w with
  | mem a v =>
    exact ⟨⟨⟨rfl, rfl, rfl, rfl, rfl, rfl, rfl, rfl, rfl, rfl⟩,
      fun h => bytesWf_bytesWrite h (Nat.mod_lt _ (by decide)) v, id⟩, rfl⟩
  | vram a v =>
    refine ⟨⟨⟨rfl, rfl, rfl, rfl, rfl, rfl, rfl, rfl, rfl, rfl⟩, id, fun h hv => ?_⟩, rfl⟩
    exact bytesWf_bytesWrite (h hv) (Nat.mod_lt _ hv) v
  | _ => exact ⟨⟨⟨rfl, rfl, rfl, rfl, rfl, rfl, rfl, rfl, rfl, rfl⟩, id, id⟩, rfl⟩

theorem deviceWrite_dma (w : DeviceWrite) (s : State) :
    (deviceWrite w s).sched.dmaCycles = s.sched.dmaCycles := by cases w <;> rfl

theorem deviceWrites_touched (ws : List DeviceWrite) (s : State) : Touched s (deviceWrites ws s) := by
  induction ws generalizing s with
  | nil => exact Touched.refl s
  | cons w ws ih => exact (deviceWrite_touched w s).trans (ih _)

theorem deviceWrites_dma (ws : List DeviceWrite) (s : State) :
    (deviceWrites ws s).sched.dmaCycles = s.sched.dmaCycles := by
  induction ws generalizing s with
  | nil => rfl
  | cons w ws ih => exact (ih _).trans (deviceWrite_dma w s)

/-- Changes none of which is to memory keep it. -/
theorem deviceWrites_mem {ws : List DeviceWrite} (h : ∀ x y, .mem x y ∉ ws) (s : State) :
    (deviceWrites ws s).mem = s.mem := by
  induction ws generalizing s with
  | nil => rfl
  | cons w ws ih =>
    refine (ih (fun x y hw => h x y (List.mem_cons_of_mem _ hw)) _).trans ?_
    cases w with
    | mem a v => exact absurd List.mem_cons_self (h a v)
    | _ => rfl

theorem setHidden_touched (s : State) (n : Nat) : Touched s (s.setHidden n) :=
  ⟨Kept.of_fields rfl rfl rfl rfl rfl rfl, rfl⟩

theorem registerLoad_touched (a : Nat) (s : State) : Touched s (registerLoad a s).2 :=
  (setHidden_touched s _).trans (deviceWrites_touched _ _)

theorem registerLoad_dma (a : Nat) (s : State) : (registerLoad a s).2.sched.dmaCycles = s.sched.dmaCycles :=
  deviceWrites_dma _ _

theorem registerLoad_mem (h : DevicesKeepMemory) (a : Nat) (s : State) : (registerLoad a s).2.mem = s.mem :=
  deviceWrites_mem (h s a 0).1 _

/-- Everything a load from a device can do: a trap of its own, or a register load. -/
theorem deviceLoad_eq_ok {b : Byte} {o : Word} {s t : State} {v : Byte} :
    deviceLoad b o s = .ok (v, t) ↔
      (Config.freeDeviceLoad s (s.busAddr b o)).trap = none ∧ (v, t) = registerLoad (s.busAddr b o) s := by
  unfold deviceLoad
  split <;> rename_i h
  · simp [h]
  · simp [h, eq_comm]

theorem deviceStore_eq_ok {b : Byte} {o : Word} {v : Byte} {s t : State} :
    deviceStore b o v s = .ok t ↔
      (Config.freeDeviceStore s (s.busAddr b o) v).trap = none ∧
        t = deviceWrites (Config.freeDeviceStore s (s.busAddr b o) v).effects
          (s.setHidden (Config.freeDeviceStore s (s.busAddr b o) v).hidden) := by
  unfold deviceStore
  simp only
  split <;> rename_i h
  · simp [h]
  · simp [h, eq_comm]

theorem deviceStore_touched {b : Byte} {o : Word} {v : Byte} {s t : State} (h : deviceStore b o v s = .ok t) :
    Touched s t := by
  obtain ⟨-, rfl⟩ := deviceStore_eq_ok.mp h
  exact (setHidden_touched s _).trans (deviceWrites_touched _ _)

theorem deviceStore_mem (hd : DevicesKeepMemory) {b : Byte} {o : Word} {v : Byte} {s t : State}
    (h : deviceStore b o v s = .ok t) : t.mem = s.mem := by
  obtain ⟨-, rfl⟩ := deviceStore_eq_ok.mp h
  exact deviceWrites_mem (hd s _ v).2 _

theorem storeEnables_touched (n h d v : Byte) (s : State) : Touched s (storeEnables n h d v s) :=
  ⟨⟨⟨rfl, rfl, rfl, rfl, rfl, rfl, rfl, rfl, rfl, rfl⟩, id, id⟩, rfl⟩

/-- The window that answers is one of the map's. -/
theorem windowAt_mem {m : BusMap} {a : Nat} {w : Window} (h : windowAt m a = some w) : w ∈ m.windows :=
  List.mem_of_find?_eq_some h

/-! ### Loads -/

/-- Everything a load that succeeds can do. -/
theorem busLoad_loaded {b : Byte} {o : Word} {s t : State} {v : Byte} (h : busLoad b o s = .ok (v, t)) :
    Loaded s t := by
  unfold busLoad at h
  split at h
  · cases h
  · rename_i w hw
    split at h
    · rename_i hr
      have device : w.kind ≠ .memory → (v, t) = registerLoad (s.busAddr b o) s → Loaded s t := by
        intro hk e
        have ht : t = (registerLoad (s.busAddr b o) s).2 := congrArg Prod.snd e
        subst ht
        refine ⟨registerLoad_touched _ s, fun q => ?_, registerLoad_dma _ s⟩
        rcases q with q | q
        · rcases q w (windowAt_mem hw) with hm | ⟨-, hn⟩
          · exact absurd hm hk
          · rw [hr] at hn; cases hn
        · exact registerLoad_mem q _ s
      split at h
      · cases h; exact Loaded.refl s
      · rename_i hk; exact device (by rw [hk]; nofun) (Except.ok.inj h).symm
      · rename_i hk; exact device (by rw [hk]; nofun) (Except.ok.inj h).symm
      · rename_i hk; exact device (by rw [hk]; nofun) (deviceLoad_eq_ok.mp h).2
    · cases h

/-- A load from plain memory: the byte, nothing changed. -/
theorem busLoad_plain {b : Byte} {o : Word} {s : State} (h : s.PlainRead b o) :
    busLoad b o s = .ok (s.byteAt b o, s) := by
  obtain ⟨w, hw, hk, hr⟩ := h
  simp [busLoad, hw, hk, hr, State.byteAt]

/-- Without devices, a load that succeeds is a load from plain memory. -/
theorem busLoad_noDevices {b : Byte} {o : Word} {s t : State} {v : Byte} (hd : s.NoDevices)
    (h : busLoad b o s = .ok (v, t)) : t = s ∧ v = s.byteAt b o := by
  unfold busLoad at h
  split at h
  · cases h
  · rename_i w hw
    have hk := hd w (windowAt_mem hw)
    rw [hk] at h
    split at h
    · cases h; exact ⟨rfl, rfl⟩
    · cases h

/-! ### Bytes after a store -/

/-- The byte just stored reads back (20 R69). -/
theorem byteAt_storeByte_same {s : State} (h : Rising s.mem) (b : Byte) (o : Word) (v : Byte) :
    (s.storeByte b o v).byteAt b o = v := by
  rw [State.byteAt, State.busAddr_congr (t := s.storeByte b o v) (s := s) rfl, State.storeByte_mem]
  exact bytesRead_bytesWrite_same h _ v

/-- Every byte apart from the one stored is as before. -/
theorem byteAt_storeByte_other {s : State} {b b' : Byte} {o o' : Word} (h : s.Apart b' o' b o) (v : Byte) :
    (s.storeByte b o v).byteAt b' o' = s.byteAt b' o' := by
  rw [State.byteAt, State.busAddr_congr (t := s.storeByte b o v) (s := s) rfl, State.storeByte_mem]
  exact bytesRead_bytesWrite_other s.mem v h

/-! ### Stores -/

theorem storeByte_touched (s : State) (b : Byte) (o : Word) (v : Byte) : Touched s (s.storeByte b o v) :=
  ⟨⟨⟨rfl, rfl, rfl, rfl, rfl, rfl, rfl, rfl, rfl, rfl⟩, fun h => bytesWf_bytesWrite h (busAddr_lt s b o) v, id⟩,
    rfl⟩

theorem busStorePlain_touched {b : Byte} {o : Word} {v : Byte} {s t : State} (h : busStorePlain b o v s = .ok t) :
    Touched s t := by
  unfold busStorePlain at h
  split at h
  · cases h
  · split at h
    · split at h
      · cases h; exact storeByte_touched _ b o v
      · cases h; exact Touched.refl _
      · cases h; exact storeEnables_touched _ _ _ v _
      · exact deviceStore_touched h
    · cases h

theorem dmaAccess_touched {x : DmaAccess} {s t : State} (h : dmaAccess x s = .ok t) : Touched s t := by
  cases x with
  | load b o =>
    obtain ⟨v, u, hu, hk⟩ := readThen_eq_ok.mp h
    cases hk; exact (busLoad_loaded hu).toTouched
  | store b o v => exact busStorePlain_touched h
  | device w => cases h; exact deviceWrite_touched w s

theorem dmaAccesses_touched {xs : List DmaAccess} {s t : State} (h : dmaAccesses xs s = .ok t) : Touched s t := by
  induction xs generalizing s with
  | nil => cases h; exact Touched.refl _
  | cons x xs ih =>
    obtain ⟨u, hu, hk⟩ := writeThen_eq_ok.mp h
    exact (dmaAccess_touched hu).trans (ih hk)

theorem stealCycles_touched (s : State) (n : Nat) : Touched s (s.stealCycles n) :=
  ⟨⟨⟨rfl, rfl, rfl, rfl, rfl, rfl, rfl, rfl, rfl, rfl⟩, id, id⟩, rfl⟩

theorem runDma_touched {m : Byte} {s t : State} (h : runDma m s = .ok t) : Touched s t := by
  obtain ⟨u, hu, hk⟩ := writeThen_eq_ok.mp h
  cases hk
  exact ((setHidden_touched s _).trans (dmaAccesses_touched hu)).trans (stealCycles_touched u _)

/-- Everything a store that succeeds can do, DMA included. -/
theorem busStore_touched {b : Byte} {o : Word} {v : Byte} {s t : State} (h : busStore b o v s = .ok t) :
    Touched s t := by
  unfold busStore at h
  split at h
  · cases h
  · split at h
    · split at h
      · cases h; exact storeByte_touched s b o v
      · exact runDma_touched h
      · cases h; exact storeEnables_touched _ _ _ v s
      · exact deviceStore_touched h
    · cases h

/-- A store to plain memory. -/
theorem busStore_plain {b : Byte} {o : Word} {s : State} (h : s.PlainWrite b o) (v : Byte) :
    busStore b o v s = .ok (s.storeByte b o v) := by
  obtain ⟨w, hw, hk, hr⟩ := h
  simp [busStore, hw, hk, hr]

/-- On a quiet bus a store that starts no DMA changes no byte but the one at its address. -/
theorem busStore_frame {b : Byte} {o : Word} {v : Byte} {s t : State} (h : busStore b o v s = .ok t)
    (hq : s.Quiet) (hd : s.NoDma b o) {b' : Byte} {o' : Word} (ha : s.Apart b' o' b o) :
    t.byteAt b' o' = s.byteAt b' o' := by
  unfold busStore at h
  split at h
  · cases h
  · rename_i w hw
    have hk := hd w hw
    split at h
    · split at h
      · cases h
        exact byteAt_storeByte_other ha v
      · rename_i hdma; exact absurd hdma hk
      · cases h; rfl
      · rename_i hdev
        rcases hq with q | q
        · rcases q w (windowAt_mem hw) with hm | ⟨hn, -⟩
          · rw [hdev] at hm; cases hm
          · exact absurd hdev hn
        · exact State.byteAt_congr (deviceStore_touched h).clock.cfg (deviceStore_mem q h) b' o'
    · cases h

/-- Without devices, a store that succeeds is a store to plain memory. -/
theorem busStore_noDevices {b : Byte} {o : Word} {v : Byte} {s t : State} (hd : s.NoDevices)
    (h : busStore b o v s = .ok t) : t = s.storeByte b o v := by
  unfold busStore at h
  split at h
  · cases h
  · rename_i w hw
    have hk := hd w (windowAt_mem hw)
    rw [hk] at h
    split at h
    · cases h; rfl
    · cases h

theorem plainRead_congr {s t : State} (h : t.cfg = s.cfg) {b : Byte} {o : Word} :
    t.PlainRead b o ↔ s.PlainRead b o := by simp only [State.PlainRead, State.window_congr h]

theorem plainWrite_congr {s t : State} (h : t.cfg = s.cfg) {b : Byte} {o : Word} :
    t.PlainWrite b o ↔ s.PlainWrite b o := by simp only [State.PlainWrite, State.window_congr h]

theorem noDma_congr {s t : State} (h : t.cfg = s.cfg) {b : Byte} {o : Word} : t.NoDma b o ↔ s.NoDma b o := by
  simp only [State.NoDma, State.window_congr h]

theorem apart_congr {s t : State} (h : t.cfg = s.cfg) {b b' : Byte} {o o' : Word} :
    t.Apart b o b' o' ↔ s.Apart b o b' o' := by simp only [State.Apart, State.busAddr_congr h]

theorem noDevices_congr {s t : State} (h : t.cfg = s.cfg) : t.NoDevices ↔ s.NoDevices := by
  simp only [State.NoDevices, h]

/-! ### Words -/

theorem busLoadWord_eq_ok {b : Byte} {o : Word} {s t : State} {v : Word} :
    busLoadWord b o s = .ok (v, t) ↔
      ∃ l u h, busLoad b o s = .ok (l, u) ∧ busLoad b (o + 1) u = .ok (h, t) ∧ v = word h l := by
  unfold busLoadWord
  constructor
  · intro h
    obtain ⟨l, u, hl, hk⟩ := readThen_eq_ok.mp h
    obtain ⟨x, w, hx, hk⟩ := readThen_eq_ok.mp hk
    cases hk; exact ⟨l, u, x, hl, hx, rfl⟩
  · rintro ⟨l, u, h, hl, hh, rfl⟩
    rw [hl, readThen_ok, hh, readThen_ok]

theorem busLoadWord_loaded {b : Byte} {o : Word} {s t : State} {v : Word} (h : busLoadWord b o s = .ok (v, t)) :
    Loaded s t := by
  obtain ⟨l, u, x, hl, hx, -⟩ := busLoadWord_eq_ok.mp h
  exact (busLoad_loaded hl).trans (busLoad_loaded hx)

theorem busStoreWord_eq_ok {b : Byte} {o : Word} {s t : State} {v : Word} :
    busStoreWord b o v s = .ok t ↔
      ∃ u, busStore b o (lo v) s = .ok u ∧ busStore b (o + 1) (hi v) u = .ok t := writeThen_eq_ok

theorem busStoreWord_touched {b : Byte} {o : Word} {s t : State} {v : Word} (h : busStoreWord b o v s = .ok t) :
    Touched s t := by
  obtain ⟨u, hu, ht⟩ := busStoreWord_eq_ok.mp h
  exact (busStore_touched hu).trans (busStore_touched ht)

theorem putsWord_iff {b : Byte} {o : Word} {v : Word} {s t : State} :
    PutsWord b o v s t ↔ busStoreWord b o v s = .ok t := by
  simp only [PutsWord, busStoreWord_eq_ok, hi_eq_shift, lo_eq_setWidth v]

end Sys2Proof.Machine
end

