-- ==== Sys2Proof/Laws/Flags.lean ====
section
/-! SUPPORT. The status byte: each flag after an update, and that the eight flags determine the byte. -/

namespace Sys2Proof.Machine

theorem getFlag_setFlag (p : Byte) (f g : Flag) (b : Bool) :
    getFlag (setFlag p f b) g = if g = f then b else getFlag p g := by
  cases b <;> cases f <;> cases g <;> simp [getFlag, setFlag, Flag.mask, Flag.bit]

@[simp] theorem getFlag_setFlag_same (p : Byte) (f : Flag) (b : Bool) : getFlag (setFlag p f b) f = b := by
  simp [getFlag_setFlag]

theorem getFlag_setFlag_other (p : Byte) {f g : Flag} (b : Bool) (h : g ≠ f) :
    getFlag (setFlag p f b) g = getFlag p g := by simp [getFlag_setFlag, h]

theorem getFlag_setnz {w : Nat} (p : Byte) (v : BitVec w) (g : Flag) :
    getFlag (setnz p v) g = if g = .n then v.msb else if g = .z then v == 0#w else getFlag p g := by
  simp only [setnz, getFlag_setFlag]

@[simp] theorem getFlag_setnz_n {w : Nat} (p : Byte) (v : BitVec w) : getFlag (setnz p v) .n = v.msb := by
  simp [getFlag_setnz]

@[simp] theorem getFlag_setnz_z {w : Nat} (p : Byte) (v : BitVec w) :
    getFlag (setnz p v) .z = (v == 0#w) := by simp [getFlag_setnz]

/-- The eight flags are the whole byte. -/
theorem byte_ext_flags {p q : Byte} (h : ∀ f : Flag, getFlag p f = getFlag q f) : p = q := by
  have hn := h .n; have hv := h .v; have hm := h .m; have hx := h .x
  have hd := h .d; have hi := h .i; have hz := h .z; have hc := h .c
  simp only [getFlag, Flag.bit] at hn hv hm hx hd hi hz hc
  apply BitVec.eq_of_getLsbD_eq
  intro i hi'
  match i, hi' with
  | 0, _ => exact hc
  | 1, _ => exact hz
  | 2, _ => exact hi
  | 3, _ => exact hd
  | 4, _ => exact hx
  | 5, _ => exact hm
  | 6, _ => exact hv
  | 7, _ => exact hn

/-- Updates of different flags may be made in either order. -/
theorem setFlag_comm (p : Byte) {f g : Flag} (a b : Bool) (h : f ≠ g) :
    setFlag (setFlag p f a) g b = setFlag (setFlag p g b) f a := by
  apply byte_ext_flags
  intro k
  simp only [getFlag_setFlag]
  by_cases hk : k = f
  · subst hk; simp [h]
  · simp [hk]

/-- Setting a flag to what it holds changes nothing. -/
@[simp] theorem setFlag_getFlag (p : Byte) (f : Flag) : setFlag p f (getFlag p f) = p := by
  apply byte_ext_flags
  intro k
  by_cases hk : k = f
  · subst hk; simp
  · simp [getFlag_setFlag, hk]

@[simp] theorem setFlag_setFlag_same (p : Byte) (f : Flag) (a b : Bool) :
    setFlag (setFlag p f a) f b = setFlag p f b := by
  apply byte_ext_flags
  intro k
  simp only [getFlag_setFlag]
  by_cases hk : k = f <;> simp [hk]

end Sys2Proof.Machine
end

