-- ==== Sys2Proof/Laws/Ops.lean ====
section
/-! SUPPORT. The fetch, the stack primitives and the interrupt: one lemma per operation that says everything an
answer implies, and the equations on RAM. -/

namespace Sys2Proof.Machine

/-! ### Updates of CPU registers -/

theorem kept_setReg (s : State) (r : Reg) (v : Word) : Kept s (s.setReg r v) :=
  Kept.of_fields (by simp) (by simp) (by simp) (by simp) (by simp) (by simp)

theorem kept_setRegLo (s : State) (r : Reg) (v : Byte) : Kept s (s.setRegLo r v) :=
  Kept.of_fields (by simp) (by simp) (by simp) (by simp) (by simp) (by simp)

theorem kept_setP (s : State) (p : Byte) : Kept s (s.setP p) := Kept.of_fields rfl rfl rfl rfl rfl rfl
theorem kept_setS (s : State) (v : Word) : Kept s (s.setS v) := Kept.of_fields rfl rfl rfl rfl rfl rfl
theorem kept_setD (s : State) (v : Word) : Kept s (s.setD v) := Kept.of_fields rfl rfl rfl rfl rfl rfl
theorem kept_setDbr (s : State) (v : Byte) : Kept s (s.setDbr v) := Kept.of_fields rfl rfl rfl rfl rfl rfl
theorem kept_setPc (s : State) (v : Word) : Kept s (s.setPc v) := Kept.of_fields rfl rfl rfl rfl rfl rfl
theorem kept_jump (s : State) (b : Byte) (o : Word) : Kept s (s.jump b o) := Kept.of_fields rfl rfl rfl rfl rfl rfl
theorem kept_setE (s : State) (b : Bool) : Kept s (s.setE b) := Kept.of_fields rfl rfl rfl rfl rfl rfl
theorem kept_setPFlag (s : State) (f : Flag) (b : Bool) : Kept s (s.setPFlag f b) :=
  Kept.of_fields rfl rfl rfl rfl rfl rfl
theorem kept_setNz {n : Nat} (s : State) (v : BitVec n) : Kept s (s.setNz v) :=
  Kept.of_fields rfl rfl rfl rfl rfl rfl

/-! ### Fetch -/

/-- Everything a fetch can do: a load, and PC one further. -/
theorem fetchb_eq_ok {s t : State} {v : Byte} :
    fetchb s = .ok (v, t) ↔ ∃ u, busLoad s.cpu.pbr s.cpu.pc s = .ok (v, u) ∧ t = u.setPc (u.cpu.pc + 1) := by
  unfold fetchb
  rw [readThen_eq_ok]
  constructor
  · rintro ⟨b, u, hu, hk⟩; cases hk; exact ⟨u, hu, rfl⟩
  · rintro ⟨u, hu, rfl⟩; exact ⟨v, u, hu, rfl⟩

/-- What `n` fetches keep: everything but PC, which is `n` further (10 R28), and what devices change. -/
theorem fetchBytes_keeps {n : Nat} {s t : State} {bs : List Byte} (h : fetchBytes n s = .ok (bs, t)) :
    Kept s t ∧ t.cpu = { s.cpu with pc := s.cpu.pc + BitVec.ofNat 16 n } ∧ (s.Quiet → t.mem = s.mem)
      ∧ t.sched.dmaCycles = s.sched.dmaCycles ∧ bs.length = n := by
  induction n generalizing s bs with
  | zero => cases h; exact ⟨Kept.refl _, by simp, fun _ => rfl, rfl, rfl⟩
  | succ n ih =>
    obtain ⟨b, u, hu, hk⟩ := readThen_eq_ok.mp h
    obtain ⟨cs, w, hw, hk⟩ := readThen_eq_ok.mp hk
    cases hk
    obtain ⟨x, hx, rfl⟩ := fetchb_eq_ok.mp hu
    have hl := busLoad_loaded hx
    obtain ⟨h1, h2, h3, h4, h5⟩ := ih hw
    refine ⟨(hl.toKept.trans (kept_setPc x _)).trans h1, ?_,
      quiet_trans (hl.toKept.trans (kept_setPc x _)) hl.sameMem h3, h4.trans hl.dma, by simp [h5]⟩
    rw [h2]
    simp only [State.setPc, hl.cpu]
    congr 1
    apply BitVec.eq_of_toNat_eq
    have h1 : (1 : Word).toNat = 1 := rfl
    simp only [BitVec.toNat_add, BitVec.toNat_ofNat, h1]
    omega

/-- `n` bytes of plain memory are fetched from consecutive offsets of the program bank. -/
theorem fetchBytes_plain (n : Nat) (s : State)
    (h : ∀ k, k < n → s.PlainRead s.cpu.pbr (s.cpu.pc + BitVec.ofNat 16 k)) :
    fetchBytes n s = .ok ((List.range n).map (fun k => s.byteAt s.cpu.pbr (s.cpu.pc + BitVec.ofNat 16 k)),
      s.setPc (s.cpu.pc + BitVec.ofNat 16 n)) := by
  induction n generalizing s with
  | zero => simp [fetchBytes, State.setPc]
  | succ n ih =>
    have h0 : s.PlainRead s.cpu.pbr s.cpu.pc := by simpa using h 0 (Nat.succ_pos n)
    have hadd : ∀ k, s.cpu.pc + 1 + BitVec.ofNat 16 k = s.cpu.pc + BitVec.ofNat 16 (k + 1) := by
      intro k
      apply BitVec.eq_of_toNat_eq
      have h1 : (1 : Word).toNat = 1 := rfl
      simp only [BitVec.toNat_add, BitVec.toNat_ofNat, h1]
      omega
    have hs := ih (s.setPc (s.cpu.pc + 1)) (by
      intro k hk
      refine (plainRead_congr (s := s) rfl).mpr ?_
      simp only [State.setPc_cpu_pc, State.setPc_cpu_pbr, hadd]
      exact h (k + 1) (Nat.succ_lt_succ hk))
    unfold fetchBytes fetchb
    simp only [busLoad_plain h0, readThen_ok]
    rw [hs, readThen_ok, List.range_succ_eq_map]
    simp only [List.map_cons, List.map_map, State.setPc_cpu_pc, State.setPc_cpu_pbr, hadd,
      State.byteAt_congr (s := s) (t := s.setPc (s.cpu.pc + 1)) rfl rfl]
    simp [Function.comp_def, State.setPc]

/-! ### The stack -/

theorem stackDown_page (sp : Word) : hi (stackDown true sp) = 0x01 := by simp [stackDown, stackPage]

theorem stackUp_page (sp : Word) : hi (stackUp true sp) = 0x01 := by simp [stackUp, stackPage]

theorem stackPage_toNat (b : Byte) : (stackPage b).toNat = 0x100 + b.toNat := by
  rw [stackPage, word_toNat]; rfl

theorem stackDown_toNat (e : Bool) (sp : Word) :
    (stackDown e sp).toNat =
      if e then 0x100 + (sp.toNat % 256 + 255) % 256 else (sp.toNat + 65535) % 65536 := by
  have := sp.isLt
  cases e
  · simp only [stackDown, Bool.false_eq_true, if_false, BitVec.toNat_sub]; simp; omega
  · simp only [stackDown, if_true, stackPage_toNat, BitVec.toNat_sub, lo_toNat]; simp; omega

theorem stackUp_toNat (e : Bool) (sp : Word) :
    (stackUp e sp).toNat = if e then 0x100 + (sp.toNat % 256 + 1) % 256 else (sp.toNat + 1) % 65536 := by
  cases e
  · simp only [stackUp, Bool.false_eq_true, if_false, BitVec.toNat_add]; rfl
  · simp only [stackUp, if_true, stackPage_toNat, BitVec.toNat_add, lo_toNat]; rfl

theorem spBelow_iff {e : Bool} {sp sp' : Word} : SpBelow e sp sp' ↔ sp' = stackDown e sp := by
  rw [BitVec.toNat_eq, stackDown_toNat]; cases e <;> rfl

theorem spAbove_iff {e : Bool} {sp sp' : Word} : SpAbove e sp sp' ↔ sp' = stackUp e sp := by
  rw [BitVec.toNat_eq, stackUp_toNat]; cases e <;> rfl

/-- Everything a push can do: one store at S in bank 0, then S one down. -/
theorem pushb_eq_ok {v : Byte} {s t : State} :
    pushb v s = .ok t ↔
      ∃ u, busStore 0x00 s.cpu.s v s = .ok u ∧ t = u.setS (stackDown s.cpu.e s.cpu.s) := by
  unfold pushb
  rw [writeThen_eq_ok]
  constructor
  · rintro ⟨u, hu, hk⟩; cases hk; exact ⟨u, hu, by rw [(busStore_touched hu).cpu]⟩
  · rintro ⟨u, hu, rfl⟩; exact ⟨u, hu, by rw [(busStore_touched hu).cpu]⟩

theorem pushb_keeps {v : Byte} {s t : State} (h : pushb v s = .ok t) :
    Kept s t ∧ t.cpu = { s.cpu with s := stackDown s.cpu.e s.cpu.s } := by
  obtain ⟨u, hu, rfl⟩ := pushb_eq_ok.mp h
  have ht := busStore_touched hu
  exact ⟨ht.toKept.trans (kept_setS u _), by simp only [State.setS, ht.cpu]⟩

/-- A push on RAM. -/
theorem pushb_plain {s : State} (h : s.PlainWrite 0x00 s.cpu.s) (v : Byte) :
    pushb v s = .ok ((s.storeByte 0x00 s.cpu.s v).setS (stackDown s.cpu.e s.cpu.s)) := by
  rw [pushb, busStore_plain h, writeThen_ok]; rfl

theorem pushw_eq_ok {v : Word} {s t : State} :
    pushw v s = .ok t ↔ ∃ u, pushb (hi v) s = .ok u ∧ pushb (lo v) u = .ok t := writeThen_eq_ok

theorem pushw_keeps {v : Word} {s t : State} (h : pushw v s = .ok t) :
    Kept s t ∧ t.cpu = { s.cpu with s := stackDown s.cpu.e (stackDown s.cpu.e s.cpu.s) } := by
  obtain ⟨u, hu, ht⟩ := pushw_eq_ok.mp h
  obtain ⟨k1, c1⟩ := pushb_keeps hu
  obtain ⟨k2, c2⟩ := pushb_keeps ht
  exact ⟨k1.trans k2, by rw [c2, c1]⟩

/-- Everything a pop can do: S one up, then one load there. -/
theorem popb_keeps {v : Byte} {s t : State} (h : popb s = .ok (v, t)) :
    Kept s t ∧ t.cpu = { s.cpu with s := stackUp s.cpu.e s.cpu.s } ∧ (s.Quiet → t.mem = s.mem)
      ∧ t.sched.dmaCycles = s.sched.dmaCycles := by
  have hl := busLoad_loaded h
  exact ⟨(kept_setS s _).trans hl.toKept, hl.cpu, hl.sameMem, hl.dma⟩

/-- A pop from RAM. -/
theorem popb_plain {s : State} (h : s.PlainRead 0x00 (stackUp s.cpu.e s.cpu.s)) :
    popb s = .ok (s.byteAt 0x00 (stackUp s.cpu.e s.cpu.s), s.setS (stackUp s.cpu.e s.cpu.s)) := by
  unfold popb
  exact busLoad_plain ((plainRead_congr (s := s) (t := s.setS _) rfl).mpr h)

theorem popw_eq_ok {v : Word} {s t : State} :
    popw s = .ok (v, t) ↔ ∃ l u h, popb s = .ok (l, u) ∧ popb u = .ok (h, t) ∧ v = word h l := by
  unfold popw
  constructor
  · intro h
    obtain ⟨l, u, hl, hk⟩ := readThen_eq_ok.mp h
    obtain ⟨x, w, hx, hk⟩ := readThen_eq_ok.mp hk
    cases hk; exact ⟨l, u, x, hl, hx, rfl⟩
  · rintro ⟨l, u, h, hl, hh, rfl⟩
    rw [hl, readThen_ok, hh, readThen_ok]

theorem popw_keeps {v : Word} {s t : State} (h : popw s = .ok (v, t)) :
    Kept s t ∧ t.cpu = { s.cpu with s := stackUp s.cpu.e (stackUp s.cpu.e s.cpu.s) } ∧ (s.Quiet → t.mem = s.mem)
      ∧ t.sched.dmaCycles = s.sched.dmaCycles := by
  obtain ⟨l, u, x, hl, hx, -⟩ := popw_eq_ok.mp h
  obtain ⟨k1, c1, m1, d1⟩ := popb_keeps hl
  obtain ⟨k2, c2, m2, d2⟩ := popb_keeps hx
  exact ⟨k1.trans k2, by rw [c2, c1], quiet_trans k1 m1 m2, d2.trans d1⟩

/-- In native mode a pop undoes the pointer's move by a push. -/
@[simp] theorem stackUp_stackDown_native (sp : Word) : stackUp false (stackDown false sp) = sp := by
  simp [stackUp, stackDown]

/-- In emulation mode too, while the pointer lies in its page. -/
theorem stackUp_stackDown_emulation {sp : Word} (h : hi sp = 0x01) : stackUp true (stackDown true sp) = sp := by
  simp only [stackUp, stackDown, stackPage, if_true, lo_word]
  rw [← h]
  simp

theorem stackUp_stackDown {e : Bool} {sp : Word} (h : e = true → hi sp = 0x01) :
    stackUp e (stackDown e sp) = sp := by
  cases e
  · exact stackUp_stackDown_native sp
  · exact stackUp_stackDown_emulation (h rfl)

theorem stackDown_keeps_page {e : Bool} {sp : Word} (h : e = true) : hi (stackDown e sp) = 0x01 := by
  subst h; exact stackDown_page sp

theorem stackUp_keeps_page {e : Bool} {sp : Word} (h : e = true) : hi (stackUp e sp) = 0x01 := by
  subst h; exact stackUp_page sp

/-! ### The interrupt -/

theorem pushFrame_keeps {s t : State} (h : pushFrame s = .ok t) :
    Kept s t ∧ ∃ sp, t.cpu = { s.cpu with s := sp } ∧ (s.cpu.e = true → hi sp = 0x01) := by
  unfold pushFrame at h
  split at h
  · rename_i he
    obtain ⟨u, hu, ht⟩ := writeThen_eq_ok.mp h
    obtain ⟨k1, c1⟩ := pushw_keeps hu
    obtain ⟨k2, c2⟩ := pushb_keeps ht
    refine ⟨k1.trans k2, _, by rw [c2, c1], fun _ => ?_⟩
    exact stackDown_keeps_page he
  · rename_i he
    obtain ⟨u, hu, ht⟩ := writeThen_eq_ok.mp h
    obtain ⟨w, hw, ht⟩ := writeThen_eq_ok.mp ht
    obtain ⟨k1, c1⟩ := pushb_keeps hu
    obtain ⟨k2, c2⟩ := pushw_keeps hw
    obtain ⟨k3, c3⟩ := pushb_keeps ht
    exact ⟨(k1.trans k2).trans k3, _, by rw [c3, c2, c1], fun h => absurd h he⟩

/-- Everything the interrupt entry can do (60 R432). -/
theorem cpuInterrupt_keeps {s t : State} (h : cpuInterrupt s = .ok t) :
    Kept s t ∧ ∃ sp pc, t.cpu = { s.cpu with
        s := sp, pc := pc, pbr := 0x00, p := setFlag (setFlag s.cpu.p .i true) .d false }
      ∧ (s.cpu.e = true → hi sp = 0x01) := by
  unfold cpuInterrupt at h
  obtain ⟨u, hu, hk⟩ := writeThen_eq_ok.mp h
  obtain ⟨v, w, hw, hk⟩ := readThen_eq_ok.mp hk
  cases hk
  obtain ⟨k1, sp, c1, hp⟩ := pushFrame_keeps hu
  have hl := busLoadWord_loaded hw
  refine ⟨(((k1.trans (kept_setP u _)).trans (kept_jump _ _ _)).trans hl.toKept).trans (kept_setPc w _), sp, v,
    ?_, hp⟩
  simp only [State.setPc, hl.cpu, State.jump, State.setP, c1]

/-- Everything RTI can do (47 R312). -/
theorem returnFromInterrupt_keeps {s t : State} (h : returnFromInterrupt s = .ok t) :
    Kept s t ∧ (s.Quiet → t.mem = s.mem) ∧ t.sched.dmaCycles = s.sched.dmaCycles
      ∧ ∃ p pc pbr sp, t.cpu = { s.cpu with p := p, pc := pc, pbr := pbr, s := sp }
        ∧ (s.cpu.e = true → pbr = s.cpu.pbr ∧ hi sp = 0x01) := by
  unfold returnFromInterrupt at h
  obtain ⟨p, u, hu, hk⟩ := readThen_eq_ok.mp h
  obtain ⟨pc, w, hw, hk⟩ := readThen_eq_ok.mp hk
  obtain ⟨k1, c1, m1, d1⟩ := popb_keeps hu
  obtain ⟨k2, c2, m2, d2⟩ := popw_keeps hw
  have mw : s.Quiet → w.mem = s.mem := quiet_trans (t := u.setP p) (k1.trans (kept_setP u p)) m1 m2
  have kw := ((k1.trans (kept_setP u p)).trans k2).trans (kept_setPc w pc)
  have cw : w.cpu = { s.cpu with
      p := p, s := stackUp s.cpu.e (stackUp s.cpu.e (stackUp s.cpu.e s.cpu.s)) } := by
    rw [c2]; simp only [State.setP, c1]
  have he : (w.setPc pc).cpu.e = s.cpu.e := by simp [cw]
  simp only at hk
  split at hk
  · rename_i hb
    cases hk
    refine ⟨kw, mw, d2.trans d1, p, pc, s.cpu.pbr,
      stackUp s.cpu.e (stackUp s.cpu.e (stackUp s.cpu.e s.cpu.s)), by simp only [State.setPc, cw], fun h => ⟨rfl, ?_⟩⟩
    exact stackUp_keeps_page h
  · rename_i hb
    obtain ⟨b, x, hx, hk⟩ := readThen_eq_ok.mp hk
    cases hk
    obtain ⟨k3, c3, m3, d3⟩ := popb_keeps hx
    refine ⟨(kw.trans k3).trans (kept_jump x b pc), quiet_trans (t := w.setPc pc) kw mw m3, d3.trans (d2.trans d1),
      p, pc, b, stackUp s.cpu.e (stackUp s.cpu.e (stackUp s.cpu.e (stackUp s.cpu.e s.cpu.s))), ?_, ?_⟩
    · simp only [State.jump, c3, State.setPc, cw]
    · intro h; rw [he] at hb; exact absurd h hb

end Sys2Proof.Machine
end

