-- ==== Sys2Proof/Laws/Operands.lean ====
section
/-! SUPPORT. The addressing-mode engine and the accessors: that `address` computes the relation EffAddr, that the
accessors are the relations of Safety, and what each shape over them can do. -/

namespace Sys2Proof.Machine

/-! ### Effective addresses -/

theorem splitAddr_eq {n : Nat} (h : n < 0x1000000) {b : Byte} {o : Word} :
    splitAddr n = (b, o) ↔ b.toNat * 65536 + o.toNat = n := by
  have hb := b.isLt
  have ho := o.isLt
  constructor
  · intro e
    have e1 := congrArg BitVec.toNat (congrArg Prod.fst e)
    have e2 := congrArg BitVec.toNat (congrArg Prod.snd e)
    simp only [splitAddr, BitVec.toNat_ofNat] at e1 e2
    omega
  · rintro rfl
    have e1 : (b.toNat * 65536 + o.toNat) / 65536 = b.toNat := by omega
    ext1
    · apply BitVec.eq_of_toNat_eq; simp only [splitAddr, BitVec.toNat_ofNat]; omega
    · apply BitVec.eq_of_toNat_eq; simp only [splitAddr, BitVec.toNat_ofNat]; omega

theorem indexLong_eq_ok {k : Byte} {a x : Word} {s t : State} {b : Byte} {o : Word} :
    indexLong k a x s = .ok ((b, o), t) ↔
      b.toNat * 65536 + o.toNat = k.toNat * 65536 + a.toNat + x.toNat ∧ t = s := by
  have hb := b.isLt
  have ho := o.isLt
  have hd : addr24 k a = k.toNat * 65536 + a.toNat := rfl
  unfold indexLong
  by_cases h : addr24 k a + x.toNat ≥ 0x1000000
  · rw [if_pos h]; constructor
    · intro e; cases e
    · rintro ⟨e, -⟩; omega
  · rw [if_neg h, Except.ok.injEq, Prod.mk.injEq, splitAddr_eq (by omega)]
    constructor
    · rintro ⟨h1, h2⟩; exact ⟨by omega, h2.symm⟩
    · rintro ⟨h1, h2⟩; exact ⟨by omega, h2.symm⟩

theorem directOffset_toNat (d : Byte) (s : State) :
    (directOffset d s).toNat = (s.cpu.d.toNat + d.toNat) % 65536 := by
  simp only [directOffset, BitVec.toNat_add, zext16_toNat]

theorem eq_directOffset {d : Byte} {s : State} {p : Word} (h : p.toNat = (s.cpu.d.toNat + d.toNat) % 65536) :
    p = directOffset d s := BitVec.eq_of_toNat_eq (h.trans (directOffset_toNat d s).symm)

theorem rel_offset_iff (pc o : Word) (r : Byte) :
    (o.toNat : Int) = (pc.toNat + r.toInt) % 65536 ↔ o = pc + sext16 r := by
  have hr := r.isLt
  have ho := o.isLt
  have hp := pc.isLt
  have hs : (sext16 r).toNat = if r.toNat < 128 then r.toNat else r.toNat + 65280 := by
    rw [sext16, BitVec.toNat_signExtend]
    simp only [BitVec.msb_eq_decide, BitVec.toNat_setWidth]
    by_cases h : r.toNat < 128 <;> simp [h] <;> split <;> omega
  rw [BitVec.toNat_eq, BitVec.toNat_add, hs, BitVec.toInt_eq_toNat_cond]
  by_cases h : r.toNat < 128
  · simp only [h, if_true]; split <;> omega
  · simp only [h, if_false]; split <;> omega

theorem absX_offset_iff {a x o : Word} :
    o.toNat = a.toNat + x.toNat ↔ ¬ (a.toNat + x.toNat > 0xFFFF) ∧ o = a + x := by
  have ho := o.isLt
  rw [BitVec.toNat_eq, BitVec.toNat_add]
  omega

/-- `address` answers what the relation EffAddr says, and only that. -/
theorem address_eq_ok {am : Variant} {s t : State} {b : Byte} {o : Word} :
    address am s = .ok ((b, o), t) ↔ EffAddr am s b o t := by
  have key : ∀ (x y : Byte) (p q : Word), (Except.ok ((x, p), s) : Except Fault ((Byte × Word) × State))
      = .ok ((y, q), t) ↔ y = x ∧ q = p ∧ t = s := by
    intro x y p q
    rw [Except.ok.injEq, Prod.mk.injEq, Prod.mk.injEq]
    constructor
    · rintro ⟨⟨h1, h2⟩, h3⟩; exact ⟨h1.symm, h2.symm, h3.symm⟩
    · rintro ⟨h1, h2, h3⟩; exact ⟨⟨h1.symm, h2.symm⟩, h3.symm⟩
  cases am with
  | imm8 v => simp [address, EffAddr]
  | imm16 v => simp [address, EffAddr]
  | abs a => exact key _ _ _ _
  | absLong k a => exact key _ _ _ _
  | absX a =>
    simp only [address, EffAddr, absX_offset_iff]
    split
    · rename_i h; constructor
      · intro e; cases e
      · rintro ⟨-, ⟨h', -⟩, -⟩; exact absurd h h'
    · rename_i h; rw [key]; simp only [h, not_false_iff, true_and]
  | absLongX k a => exact indexLong_eq_ok
  | direct d =>
    simp only [address, EffAddr, ← directOffset_toNat]
    rw [key, BitVec.toNat_eq (x := o)]
  | directX d =>
    have e : (directOffset d s + s.xi).toNat = (s.cpu.d.toNat + d.toNat + s.xi.toNat) % 65536 := by
      rw [BitVec.toNat_add, directOffset_toNat]; omega
    simp only [address, EffAddr, ← e]
    rw [key, BitVec.toNat_eq (x := o)]
  | rel r =>
    simp only [address, EffAddr, rel_offset_iff]
    exact key _ _ _ _
  | indLongY d =>
    simp only [address, EffAddr]
    constructor
    · intro h
      split at h
      · cases h
      · rename_i hp
        obtain ⟨l, s1, hl, h⟩ := readThen_eq_ok.mp h
        obtain ⟨m, s2, hm, h⟩ := readThen_eq_ok.mp h
        obtain ⟨x, s3, hx, h⟩ := readThen_eq_ok.mp h
        obtain ⟨e, rfl⟩ := indexLong_eq_ok.mp h
        refine ⟨directOffset d s, directOffset_toNat d s, by omega, l, m, x, s1, s2, hl, hm, hx, ?_⟩
        rw [word_toNat] at e
        have c1 := (busLoad_loaded hl).cpu
        have c2 := (busLoad_loaded hm).cpu
        have c3 := (busLoad_loaded hx).cpu
        rw [State.yi_congr (c3.trans (c2.trans c1))] at e
        rw [Nat.add_assoc (x.toNat * 65536)]
        exact e
    · rintro ⟨p, hp, hlt, l, m, x, s1, s2, hl, hm, hx, e⟩
      obtain rfl := eq_directOffset hp
      rw [if_neg (by omega), hl, readThen_ok, hm, readThen_ok, hx, readThen_ok]
      have c1 := (busLoad_loaded hl).cpu
      have c2 := (busLoad_loaded hm).cpu
      have c3 := (busLoad_loaded hx).cpu
      refine indexLong_eq_ok.mpr ⟨?_, rfl⟩
      rw [State.yi_congr (c3.trans (c2.trans c1)), word_toNat, ← Nat.add_assoc]
      exact e

/-- Everything the computation of an address can do: at most the loads of a pointer. -/
theorem effAddr_loaded {am : Variant} {s t : State} {b : Byte} {o : Word} (h : EffAddr am s b o t) : Loaded s t := by
  cases am with
  | imm8 v => exact h.elim
  | imm16 v => exact h.elim
  | indLongY d =>
    obtain ⟨p, -, -, l, m, x, s1, s2, hl, hm, hx, -⟩ := h
    exact ((busLoad_loaded hl).trans (busLoad_loaded hm)).trans (busLoad_loaded hx)
  | absLongX k a => rw [h.2]; exact Loaded.refl s
  | _ => rw [h.2.2]; exact Loaded.refl s

theorem address_loaded {am : Variant} {s t : State} {x : Byte × Word} (h : address am s = .ok (x, t)) :
    Loaded s t := effAddr_loaded (address_eq_ok (b := x.1) (o := x.2).mp h)

/-- Without devices, computing an address changes nothing. -/
theorem effAddr_noDevices {am : Variant} {s t : State} {b : Byte} {o : Word} (hd : s.NoDevices)
    (h : EffAddr am s b o t) : t = s := by
  cases am with
  | imm8 v => exact h.elim
  | imm16 v => exact h.elim
  | indLongY d =>
    obtain ⟨p, -, -, l, m, x, s1, s2, hl, hm, hx, -⟩ := h
    obtain ⟨rfl, -⟩ := busLoad_noDevices hd hl
    obtain ⟨rfl, -⟩ := busLoad_noDevices hd hm
    exact (busLoad_noDevices hd hx).1
  | absLongX k a => exact h.2
  | _ => exact h.2.2

/-! ### Accessors -/

theorem checkWord_eq_ok {β : Type} {b : Byte} {o : Word} {k : Except Fault β} {x : β} :
    checkWord b o k = .ok x ↔ o ≠ 0xFFFF ∧ k = .ok x := by
  unfold checkWord
  split
  · rename_i h; constructor
    · intro e; cases e
    · rintro ⟨h', -⟩; exact absurd h h'
  · rename_i h; exact ⟨fun e => ⟨h, e⟩, fun e => e.2⟩

/-- `loadb` is the relation LoadsByte. -/
theorem loadb_eq_ok {am : Variant} {s t : State} {v : Byte} : loadb am s = .ok (v, t) ↔ LoadsByte am s v t := by
  have key : ∀ am, (∀ k, am ≠ .imm8 k) →
      (readThen (address am s) (fun x s => busLoad x.1 x.2 s) = .ok (v, t) ↔ LoadsByte am s v t) := by
    intro am hne
    rw [readThen_eq_ok]
    constructor
    · rintro ⟨⟨b, o⟩, u, ha, hl⟩; exact .inr ⟨b, o, u, address_eq_ok.mp ha, hl⟩
    · rintro (⟨rfl, -⟩ | ⟨b, o, u, ha, hl⟩)
      · exact absurd rfl (hne v)
      · exact ⟨(b, o), u, address_eq_ok.mpr ha, hl⟩
  cases am with
  | imm8 k =>
    simp only [loadb, LoadsByte, EffAddr, Except.ok.injEq, Prod.mk.injEq, Variant.imm8.injEq]
    constructor
    · rintro ⟨rfl, rfl⟩; exact .inl ⟨rfl, rfl⟩
    · rintro (⟨rfl, rfl⟩ | ⟨_, _, _, h, -⟩)
      · exact ⟨rfl, rfl⟩
      · exact h.elim
  | imm16 k => simp [loadb, LoadsByte, EffAddr]
  | abs a => exact key (.abs a) nofun
  | absLong k a => exact key (.absLong k a) nofun
  | absX a => exact key (.absX a) nofun
  | absLongX k a => exact key (.absLongX k a) nofun
  | direct d => exact key (.direct d) nofun
  | directX d => exact key (.directX d) nofun
  | rel r => exact key (.rel r) nofun
  | indLongY d => exact key (.indLongY d) nofun

/-- `loadw` is the relation LoadsWord. -/
theorem loadw_eq_ok {am : Variant} {s t : State} {v : Word} : loadw am s = .ok (v, t) ↔ LoadsWord am s v t := by
  have key : ∀ am, (∀ k, am ≠ .imm16 k) →
      (readThen (address am s) (fun x s => checkWord x.1 x.2 (busLoadWord x.1 x.2 s)) = .ok (v, t)
        ↔ LoadsWord am s v t) := by
    intro am hne
    rw [readThen_eq_ok]
    constructor
    · rintro ⟨⟨b, o⟩, u, ha, hl⟩
      obtain ⟨ho, hl⟩ := checkWord_eq_ok.mp hl
      obtain ⟨l, w, h, h1, h2, rfl⟩ := busLoadWord_eq_ok.mp hl
      exact .inr ⟨b, o, u, l, w, h, address_eq_ok.mp ha, ho, h1, h2, word_toNat h l⟩
    · rintro (⟨rfl, -⟩ | ⟨b, o, u, l, w, h, ha, ho, h1, h2, hv⟩)
      · exact absurd rfl (hne v)
      · exact ⟨(b, o), u, address_eq_ok.mpr ha,
          checkWord_eq_ok.mpr ⟨ho, busLoadWord_eq_ok.mpr ⟨l, w, h, h1, h2, eq_word_of_toNat hv⟩⟩⟩
  cases am with
  | imm16 k =>
    simp only [loadw, LoadsWord, EffAddr, Except.ok.injEq, Prod.mk.injEq, Variant.imm16.injEq]
    constructor
    · rintro ⟨rfl, rfl⟩; exact .inl ⟨rfl, rfl⟩
    · rintro (⟨rfl, rfl⟩ | ⟨_, _, _, _, _, _, h, -⟩)
      · exact ⟨rfl, rfl⟩
      · exact h.elim
  | imm8 k => simp [loadw, LoadsWord, EffAddr]
  | abs a => exact key (.abs a) nofun
  | absLong k a => exact key (.absLong k a) nofun
  | absX a => exact key (.absX a) nofun
  | absLongX k a => exact key (.absLongX k a) nofun
  | direct d => exact key (.direct d) nofun
  | directX d => exact key (.directX d) nofun
  | rel r => exact key (.rel r) nofun
  | indLongY d => exact key (.indLongY d) nofun

/-- `storeb` is the relation StoresByte. -/
theorem storeb_eq_ok {am : Variant} {s t : State} {v : Byte} : storeb am v s = .ok t ↔ StoresByte am v s t := by
  have key : ∀ am, (readThen (address am s) (fun x s => busStore x.1 x.2 v s) = .ok t ↔ StoresByte am v s t) := by
    intro am
    rw [readThen_eq_ok]
    constructor
    · rintro ⟨⟨b, o⟩, u, ha, hl⟩; exact ⟨b, o, u, address_eq_ok.mp ha, hl⟩
    · rintro ⟨b, o, u, ha, hl⟩; exact ⟨(b, o), u, address_eq_ok.mpr ha, hl⟩
  cases am with
  | imm8 k => simp [storeb, StoresByte, EffAddr]
  | imm16 k => simp [storeb, StoresByte, EffAddr]
  | abs a => exact key (.abs a)
  | absLong k a => exact key (.absLong k a)
  | absX a => exact key (.absX a)
  | absLongX k a => exact key (.absLongX k a)
  | direct d => exact key (.direct d)
  | directX d => exact key (.directX d)
  | rel r => exact key (.rel r)
  | indLongY d => exact key (.indLongY d)

/-- `storew` is the relation StoresWord. -/
theorem storew_eq_ok {am : Variant} {s t : State} {v : Word} : storew am v s = .ok t ↔ StoresWord am v s t := by
  have key : ∀ am, (readThen (address am s) (fun x s => checkWord x.1 x.2 (busStoreWord x.1 x.2 v s)) = .ok t
      ↔ StoresWord am v s t) := by
    intro am
    rw [readThen_eq_ok]
    constructor
    · rintro ⟨⟨b, o⟩, u, ha, hl⟩
      obtain ⟨ho, hl⟩ := checkWord_eq_ok.mp hl
      exact ⟨b, o, u, address_eq_ok.mp ha, ho, putsWord_iff.mpr hl⟩
    · rintro ⟨b, o, u, ha, ho, hl⟩
      exact ⟨(b, o), u, address_eq_ok.mpr ha, checkWord_eq_ok.mpr ⟨ho, putsWord_iff.mp hl⟩⟩
  cases am with
  | imm8 k => simp [storew, StoresWord, EffAddr]
  | imm16 k => simp [storew, StoresWord, EffAddr]
  | abs a => exact key (.abs a)
  | absLong k a => exact key (.absLong k a)
  | absX a => exact key (.absX a)
  | absLongX k a => exact key (.absLongX k a)
  | direct d => exact key (.direct d)
  | directX d => exact key (.directX d)
  | rel r => exact key (.rel r)
  | indLongY d => exact key (.indLongY d)

theorem loadsByte_loaded {am : Variant} {s t : State} {v : Byte} (h : LoadsByte am s v t) : Loaded s t := by
  rcases h with ⟨-, rfl⟩ | ⟨b, o, u, ha, hl⟩
  · exact Loaded.refl _
  · exact (effAddr_loaded ha).trans (busLoad_loaded hl)

theorem loadsWord_loaded {am : Variant} {s t : State} {v : Word} (h : LoadsWord am s v t) : Loaded s t := by
  rcases h with ⟨-, rfl⟩ | ⟨b, o, u, l, w, x, ha, -, h1, h2, -⟩
  · exact Loaded.refl _
  · exact ((effAddr_loaded ha).trans (busLoad_loaded h1)).trans (busLoad_loaded h2)

theorem putsWord_touched {b : Byte} {o : Word} {v : Word} {s t : State} (h : PutsWord b o v s t) : Touched s t :=
  busStoreWord_touched (putsWord_iff.mp h)

theorem storesByte_touched {am : Variant} {s t : State} {v : Byte} (h : StoresByte am v s t) : Touched s t := by
  obtain ⟨b, o, u, ha, hs⟩ := h
  exact (effAddr_loaded ha).toTouched.trans (busStore_touched hs)

theorem storesWord_touched {am : Variant} {s t : State} {v : Word} (h : StoresWord am v s t) : Touched s t := by
  obtain ⟨b, o, u, ha, -, hs⟩ := h
  exact (effAddr_loaded ha).toTouched.trans (putsWord_touched hs)

/-! ### Shapes -/

/-- The result of an 8-bit computation, when the operand is the byte `v` and `t` the state it leaves. -/
theorem regOperand_byte {f : Alu} {r : Reg} {am : Variant} {s t : State} {v : Byte} (hn : s.narrow r = true)
    (h : LoadsByte am s v t) :
    regOperand f r am s = .ok (put8 r (f 8 s.cpu.p (lo (s.reg r)) v) t) := by
  have hc := (loadsByte_loaded h).cpu
  rw [regOperand, if_pos hn, loadb_eq_ok.mpr h, readThen_ok, hc, State.reg_congr hc]

/-- The 16-bit case. -/
theorem regOperand_word {f : Alu} {r : Reg} {am : Variant} {s t : State} {v : Word} (hn : s.narrow r = false)
    (h : LoadsWord am s v t) :
    regOperand f r am s = .ok (put16 r (f 16 s.cpu.p (s.reg r) v) t) := by
  have hc := (loadsWord_loaded h).cpu
  rw [regOperand, if_neg (by simp [hn]), loadw_eq_ok.mpr h, readThen_ok, hc, State.reg_congr hc]

/-- Everything the shape can do. -/
theorem regOperand_cases {f : Alu} {r : Reg} {am : Variant} {s t : State} (h : regOperand f r am s = .ok t) :
    (s.narrow r = true ∧ ∃ v u, LoadsByte am s v u ∧ t = put8 r (f 8 s.cpu.p (lo (s.reg r)) v) u) ∨
    (s.narrow r = false ∧ ∃ v u, LoadsWord am s v u ∧ t = put16 r (f 16 s.cpu.p (s.reg r) v) u) := by
  cases hn : s.narrow r
  · rw [regOperand, if_neg (by simp [hn])] at h
    obtain ⟨v, u, hv, -⟩ := readThen_eq_ok.mp h
    have hv := loadw_eq_ok.mp hv
    refine .inr ⟨rfl, v, u, hv, ?_⟩
    have e := regOperand_word (f := f) hn hv
    rw [regOperand, if_neg (by simp [hn])] at e
    exact (Except.ok.inj (e.symm.trans h)).symm
  · rw [regOperand, if_pos hn] at h
    obtain ⟨v, u, hv, -⟩ := readThen_eq_ok.mp h
    have hv := loadb_eq_ok.mp hv
    refine .inl ⟨rfl, v, u, hv, ?_⟩
    have e := regOperand_byte (f := f) hn hv
    rw [regOperand, if_pos hn] at e
    exact (Except.ok.inj (e.symm.trans h)).symm

theorem regStore_byte {r : Reg} {am : Variant} {s : State} (hn : s.narrow r = true) :
    regStore r am s = storeb am (lo (s.reg r)) s := by rw [regStore, if_pos hn]

theorem regStore_word {r : Reg} {am : Variant} {s : State} (hn : s.narrow r = false) :
    regStore r am s = storew am (s.reg r) s := by rw [regStore, if_neg (by simp [hn])]

/-- An 8-bit read-modify-write. -/
theorem readModifyWrite_byte {f : Alu} {am : Variant} {s w t : State} {v : Byte} (hn : s.m8 = true)
    (h : ModifiesByte am s v (f 8 s.cpu.p (lo s.cpu.a) v).1 w t) :
    readModifyWrite f am s = .ok (t.setP (f 8 s.cpu.p (lo s.cpu.a) v).2) := by
  obtain ⟨b, o, u, ha, hl, hs⟩ := h
  have c1 := (effAddr_loaded ha).cpu
  have c2 := (busLoad_loaded hl).cpu
  have hm : u.m8 = true := by rw [← hn]; simp only [State.m8, c1]
  rw [readModifyWrite, address_eq_ok.mpr ha, readThen_ok, if_pos hm, hl, readThen_ok]
  simp only [c2, c1]
  rw [hs, writeThen_ok]

/-- A 16-bit read-modify-write. -/
theorem readModifyWrite_word {f : Alu} {am : Variant} {s w t : State} {v : Word} (hn : s.m8 = false)
    (h : ModifiesWord am s v (f 16 s.cpu.p s.cpu.a v).1 w t) :
    readModifyWrite f am s = .ok (t.setP (f 16 s.cpu.p s.cpu.a v).2) := by
  obtain ⟨b, o, u, l, x, y, ha, ho, hl, hh, hv, hs⟩ := h
  have c1 := (effAddr_loaded ha).cpu
  have c2 := (busLoad_loaded hl).cpu
  have c3 := (busLoad_loaded hh).cpu
  have hm : u.m8 = false := by rw [← hn]; simp only [State.m8, c1]
  have hw := busLoadWord_eq_ok.mpr ⟨l, x, y, hl, hh, eq_word_of_toNat hv⟩
  rw [readModifyWrite, address_eq_ok.mpr ha, readThen_ok, if_neg (by simp [hm])]
  refine checkWord_eq_ok.mpr ⟨ho, ?_⟩
  rw [hw, readThen_ok]
  simp only [c3, c2, c1]
  rw [putsWord_iff.mp hs, writeThen_ok]

/-- Everything the primitive can do. -/
theorem readModifyWrite_cases {f : Alu} {am : Variant} {s t : State} (h : readModifyWrite f am s = .ok t) :
    (s.m8 = true ∧ ∃ v w u, ModifiesByte am s v (f 8 s.cpu.p (lo s.cpu.a) v).1 w u
      ∧ t = u.setP (f 8 s.cpu.p (lo s.cpu.a) v).2) ∨
    (s.m8 = false ∧ ∃ v w u, ModifiesWord am s v (f 16 s.cpu.p s.cpu.a v).1 w u
      ∧ t = u.setP (f 16 s.cpu.p s.cpu.a v).2) := by
  unfold readModifyWrite at h
  obtain ⟨⟨b, o⟩, u, ha, h⟩ := readThen_eq_ok.mp h
  have he := address_eq_ok.mp ha
  have c1 := (effAddr_loaded he).cpu
  have hm : u.m8 = s.m8 := by simp only [State.m8, c1]
  rw [hm] at h
  split at h
  · rename_i hn
    obtain ⟨v, w, hl, h⟩ := readThen_eq_ok.mp h
    have c2 := (busLoad_loaded hl).cpu
    simp only [c2, c1] at h
    obtain ⟨x, hs, h⟩ := writeThen_eq_ok.mp h
    cases h
    exact .inl ⟨hn, v, w, x, ⟨b, o, u, he, hl, hs⟩, rfl⟩
  · rename_i hn
    obtain ⟨ho, h⟩ := checkWord_eq_ok.mp h
    obtain ⟨v, w, hl, h⟩ := readThen_eq_ok.mp h
    obtain ⟨l, x, y, h1, h2, hv⟩ := busLoadWord_eq_ok.mp hl
    have c2 := (busLoadWord_loaded hl).cpu
    simp only [c2, c1] at h
    obtain ⟨z, hs, h⟩ := writeThen_eq_ok.mp h
    cases h
    exact .inr ⟨by simpa using hn, v, w, z, ⟨b, o, u, l, x, y, he, ho, h1, h2, by rw [hv, word_toNat],
      putsWord_iff.mpr hs⟩, rfl⟩

theorem modifiesByte_touched {am : Variant} {s w t : State} {v r : Byte} (h : ModifiesByte am s v r w t) :
    Touched s t := by
  obtain ⟨b, o, u, ha, hl, hs⟩ := h
  exact ((effAddr_loaded ha).trans (busLoad_loaded hl)).toTouched.trans (busStore_touched hs)

theorem modifiesWord_touched {am : Variant} {s w t : State} {v r : Word} (h : ModifiesWord am s v r w t) :
    Touched s t := by
  obtain ⟨b, o, u, l, x, y, ha, -, hl, hh, -, hs⟩ := h
  exact (((effAddr_loaded ha).trans (busLoad_loaded hl)).trans (busLoad_loaded hh)).toTouched.trans
    (putsWord_touched hs)

/-! ### What the shapes keep -/

theorem kept_put8 (r : Reg) (o : Byte × Byte) (s : State) : Kept s (put8 r o s) :=
  (kept_setRegLo s r o.1).trans (kept_setP _ o.2)

theorem kept_put16 (r : Reg) (o : Word × Byte) (s : State) : Kept s (put16 r o s) :=
  (kept_setReg s r o.1).trans (kept_setP _ o.2)

@[simp] theorem put8_mem (r : Reg) (o : Byte × Byte) (s : State) : (put8 r o s).mem = s.mem := by simp [put8]
@[simp] theorem put16_mem (r : Reg) (o : Word × Byte) (s : State) : (put16 r o s).mem = s.mem := by simp [put16]
@[simp] theorem put8_sched (r : Reg) (o : Byte × Byte) (s : State) : (put8 r o s).sched = s.sched := by simp [put8]
@[simp] theorem put16_sched (r : Reg) (o : Word × Byte) (s : State) : (put16 r o s).sched = s.sched := by
  simp [put16]
@[simp] theorem put8_cpu_s (r : Reg) (o : Byte × Byte) (s : State) : (put8 r o s).cpu.s = s.cpu.s := by simp [put8]
@[simp] theorem put16_cpu_s (r : Reg) (o : Word × Byte) (s : State) : (put16 r o s).cpu.s = s.cpu.s := by
  simp [put16]
@[simp] theorem put8_cpu_e (r : Reg) (o : Byte × Byte) (s : State) : (put8 r o s).cpu.e = s.cpu.e := by simp [put8]
@[simp] theorem put16_cpu_e (r : Reg) (o : Word × Byte) (s : State) : (put16 r o s).cpu.e = s.cpu.e := by
  simp [put16]

end Sys2Proof.Machine
end

