-- ==== Sys2Proof/Laws/Exec.lean ====
section
/-! SUPPORT. The dispatch read by mnemonic: one relation each for the instructions over a variant, the branches and
the rest, so that a proof splits on mnemonics and not on 179 constructors; and what every instruction keeps. -/

namespace Sys2Proof.Machine

/-- Whether a variant is an immediate. -/
def immediate : Variant → Bool
  | .imm8 _ | .imm16 _ => true
  | _ => false

/-- The meaning of a mnemonic over a variant that is an operand; none for the mnemonics that have no such form. -/
def overVariant (m : Mnemonic) (op : Byte) (am : Variant) (s : State) : Option (Except Fault State) :=
  match m with
  | .LDA => some (lda am s)
  | .LDX => some (ldx am s)
  | .LDY => some (ldy am s)
  | .STA => some (sta am s)
  | .STX => some (stx am s)
  | .STY => some (sty am s)
  | .STZ => some (stz am s)
  | .ADC => some (adc op am s)
  | .SBC => some (sbc op am s)
  | .AND => some (and_ am s)
  | .ORA => some (ora am s)
  | .EOR => some (eor am s)
  | .CMP => some (cmp am s)
  | .CPX => some (cpx am s)
  | .CPY => some (cpy am s)
  | .BIT => some (if immediate am then bitImm am s else bit am s)
  | .TSB => some (tsb am s)
  | .TRB => some (trb am s)
  | .ASL => some (asl am s)
  | .LSR => some (lsr am s)
  | .ROL => some (rol am s)
  | .ROR => some (ror am s)
  | .INC => some (inc am s)
  | .DEC => some (dec am s)
  | _ => none

/-- The meaning of a mnemonic that has no operand, or the accumulator. -/
def implied (m : Mnemonic) (s : State) : Option (Except Fault State) :=
  match m with
  | .TAX => some (tax s)
  | .TAY => some (tay s)
  | .TXA => some (txa s)
  | .TYA => some (tya s)
  | .TXY => some (txy s)
  | .TYX => some (tyx s)
  | .TXS => some (txs s)
  | .TSX => some (tsx s)
  | .TCS => some (tcs s)
  | .TSC => some (tsc s)
  | .TCD => some (tcd s)
  | .TDC => some (tdc s)
  | .XBA => some (xba s)
  | .PHA => some (pha s)
  | .PHX => some (phx s)
  | .PHY => some (phy s)
  | .PHP => some (php s)
  | .PHB => some (phb s)
  | .PHK => some (phk s)
  | .PHD => some (phd s)
  | .PLA => some (pla s)
  | .PLX => some (plx s)
  | .PLY => some (ply s)
  | .PLP => some (plp s)
  | .PLB => some (plb s)
  | .PLD => some (pld s)
  | .INX => some (inx s)
  | .INY => some (iny s)
  | .DEX => some (dex s)
  | .DEY => some (dey s)
  | .RTL => some (rtl s)
  | .CLC => some (clc s)
  | .SEC => some (sec s)
  | .CLI => some (cli s)
  | .SEI => some (sei s)
  | .CLD => some (cld s)
  | .SED => some (sed s)
  | .CLV => some (clv s)
  | .XCE => some (xce s)
  | .NOP => some (nop s)
  | .RTI => some (rti s)
  | .ASL => some (aslA s)
  | .LSR => some (lsrA s)
  | .ROL => some (rolA s)
  | .ROR => some (rorA s)
  | .INC => some (incA s)
  | .DEC => some (decA s)
  | _ => none

/-- The condition a branch tests. -/
def condition (m : Mnemonic) (p : Byte) : Option Bool :=
  match m with
  | .BPL => some (!getFlag p .n)
  | .BMI => some (getFlag p .n)
  | .BVC => some (!getFlag p .v)
  | .BVS => some (getFlag p .v)
  | .BCC => some (!getFlag p .c)
  | .BCS => some (getFlag p .c)
  | .BNE => some (!getFlag p .z)
  | .BEQ => some (getFlag p .z)
  | .BRA => some true
  | _ => none

/-- An instruction over a variant runs its mnemonic's meaning. -/
theorem exec_over {i : Instr} {s : State} {am : Variant} {r : Except Fault State} (hv : i.variant? = some am)
    (hm : overVariant i.mnemonic i.opcode am s = some r) : exec i s = finish r := by
  cases i with
  | bitImm v => cases v <;> cases hv <;> cases hm <;> rfl
  | _ => cases hv <;> cases hm <;> rfl

/-- An instruction without an operand runs its mnemonic's meaning. -/
theorem exec_implied {i : Instr} {s : State} {r : Except Fault State} (hv : i.variant? = none)
    (hm : implied i.mnemonic s = some r) : exec i s = finish r := by
  cases i <;> cases hv <;> cases hm <;> rfl

/-- A branch runs the common form under its condition. -/
theorem exec_branch {i : Instr} {s : State} {k : Byte} {c : Bool} (hv : i.variant? = some (.rel k))
    (hm : condition i.mnemonic s.cpu.p = some c) : exec i s = finish (branch c k s) := by
  cases i <;> first
    | (cases hm; cases hv; rfl)
    | cases hm

/-- Every instruction is one of these. -/
theorem exec_cases (i : Instr) (s : State) :
    (∃ am r, i.variant? = some am ∧ overVariant i.mnemonic i.opcode am s = some r ∧ exec i s = finish r)
    ∨ (∃ r, i.variant? = none ∧ implied i.mnemonic s = some r ∧ exec i s = finish r)
    ∨ (∃ k c, i.variant? = some (.rel k) ∧ condition i.mnemonic s.cpu.p = some c
        ∧ exec i s = finish (branch c k s))
    ∨ (∃ k, i = .rep k) ∨ (∃ k, i = .sep k) ∨ (∃ b a, i = .jml b a) ∨ (∃ b a, i = .jsl b a) := by
  cases i with
  | rep k => exact .inr (.inr (.inr (.inl ⟨k, rfl⟩)))
  | sep k => exact .inr (.inr (.inr (.inr (.inl ⟨k, rfl⟩))))
  | jml b a => exact .inr (.inr (.inr (.inr (.inr (.inl ⟨b, a, rfl⟩)))))
  | jsl b a => exact .inr (.inr (.inr (.inr (.inr (.inr ⟨b, a, rfl⟩)))))
  | bitImm v => cases v <;> exact .inl ⟨_, _, rfl, rfl, rfl⟩
  | _ =>
    first
      | exact .inr (.inl ⟨_, rfl, rfl, rfl⟩)
      | exact .inr (.inr (.inl ⟨_, _, rfl, rfl, rfl⟩))
      | exact .inl ⟨_, _, rfl, rfl, rfl⟩

/-- No instruction is refused. -/
theorem exec_not_refused (i : Instr) (s : State) (f : Refusal) : exec i s ≠ .refused f := by
  have key : ∀ r : Except Fault State, finish r ≠ .refused f := by
    intro r; rcases r with e | t <;> simp [finish]
  rcases exec_cases i s with ⟨am, r, -, -, h⟩ | ⟨r, -, -, h⟩ | ⟨k, c, -, -, h⟩ | ⟨k, rfl⟩ | ⟨k, rfl⟩
    | ⟨b, a, rfl⟩ | ⟨b, a, rfl⟩
  · rw [h]; exact key _
  · rw [h]; exact key _
  · rw [h]; exact key _
  · exact key (rep k s)
  · exact key (sep k s)
  · exact key (jml b a s)
  · exact key (jsl b a s)

/-! ### What every instruction keeps -/

/-- The clock and the canonical forms are kept, and the stack page of emulation mode. -/
structure Safe (s t : State) : Prop extends Kept s t where
  page : (s.cpu.e = true → hi s.cpu.s = 0x01) → t.cpu.e = true → hi t.cpu.s = 0x01

theorem Safe.of_cpu {s t : State} (h : Kept s t) (hs : t.cpu.s = s.cpu.s) (he : t.cpu.e = s.cpu.e) : Safe s t :=
  ⟨h, fun hp => by rw [hs, he]; exact hp⟩

theorem Safe.of_touched {s t : State} (h : Touched s t) : Safe s t :=
  Safe.of_cpu h.toKept (by rw [h.cpu]) (by rw [h.cpu])

theorem regOperand_safe {f : Alu} {r : Reg} {am : Variant} {s t : State} (h : regOperand f r am s = .ok t) :
    Safe s t := by
  rcases regOperand_cases h with ⟨-, v, u, hl, rfl⟩ | ⟨-, v, u, hl, rfl⟩
  · have hu := (loadsByte_loaded hl).toTouched
    exact Safe.of_cpu (hu.toKept.trans (kept_put8 r _ u)) (by simp [hu.cpu]) (by simp [hu.cpu])
  · have hu := (loadsWord_loaded hl).toTouched
    exact Safe.of_cpu (hu.toKept.trans (kept_put16 r _ u)) (by simp [hu.cpu]) (by simp [hu.cpu])

theorem regStore_touched {r : Reg} {am : Variant} {s t : State} (h : regStore r am s = .ok t) : Touched s t := by
  cases hn : s.narrow r
  · rw [regStore_word hn] at h; exact storesWord_touched (storew_eq_ok.mp h)
  · rw [regStore_byte hn] at h; exact storesByte_touched (storeb_eq_ok.mp h)

theorem stz_touched {am : Variant} {s t : State} (h : stz am s = .ok t) : Touched s t := by
  unfold stz at h
  split at h
  · exact storesByte_touched (storeb_eq_ok.mp h)
  · exact storesWord_touched (storew_eq_ok.mp h)

theorem readModifyWrite_safe {f : Alu} {am : Variant} {s t : State} (h : readModifyWrite f am s = .ok t) :
    Safe s t := by
  rcases readModifyWrite_cases h with ⟨-, v, w, u, hm, rfl⟩ | ⟨-, v, w, u, hm, rfl⟩
  · have hu := modifiesByte_touched hm
    exact Safe.of_cpu (hu.toKept.trans (kept_setP u _)) (by simp [hu.cpu]) (by simp [hu.cpu])
  · have hu := modifiesWord_touched hm
    exact Safe.of_cpu (hu.toKept.trans (kept_setP u _)) (by simp [hu.cpu]) (by simp [hu.cpu])

theorem regAlone_safe (f : Alu) (r : Reg) (s : State) : Safe s (regAlone f r s) := by
  unfold regAlone
  split
  · exact Safe.of_cpu (kept_put8 r _ s) (by simp) (by simp)
  · exact Safe.of_cpu (kept_put16 r _ s) (by simp) (by simp)

theorem transfer_safe (r : Reg) (v : Word) (s : State) : Safe s (transfer r v s) := by
  unfold transfer
  split
  · exact Safe.of_cpu (kept_put8 r _ s) (by simp) (by simp)
  · exact Safe.of_cpu (kept_put16 r _ s) (by simp) (by simp)

theorem pushb_safe {v : Byte} {s t : State} (h : pushb v s = .ok t) : Safe s t := by
  obtain ⟨k, c⟩ := pushb_keeps h
  refine ⟨k, fun _ he => ?_⟩
  rw [c] at he ⊢
  exact stackDown_keeps_page he

theorem pushw_safe {v : Word} {s t : State} (h : pushw v s = .ok t) : Safe s t := by
  obtain ⟨k, c⟩ := pushw_keeps h
  refine ⟨k, fun _ he => ?_⟩
  rw [c] at he ⊢
  exact stackDown_keeps_page he

theorem popb_safe {v : Byte} {s t : State} (h : popb s = .ok (v, t)) : Safe s t := by
  obtain ⟨k, c, -⟩ := popb_keeps h
  refine ⟨k, fun _ he => ?_⟩
  rw [c] at he ⊢
  exact stackUp_keeps_page he

theorem popw_safe {v : Word} {s t : State} (h : popw s = .ok (v, t)) : Safe s t := by
  obtain ⟨k, c, -⟩ := popw_keeps h
  refine ⟨k, fun _ he => ?_⟩
  rw [c] at he ⊢
  exact stackUp_keeps_page he

theorem Safe.trans {s t u : State} (h : Safe s t) (k : Safe t u) : Safe s u :=
  ⟨h.toKept.trans k.toKept, fun hp => k.page (h.page hp)⟩

theorem pushReg_safe {r : Reg} {s t : State} (h : pushReg r s = .ok t) : Safe s t := by
  unfold pushReg at h
  split at h
  · exact pushb_safe h
  · exact pushw_safe h

theorem pullReg_safe {r : Reg} {s t : State} (h : pullReg r s = .ok t) : Safe s t := by
  unfold pullReg at h
  split at h
  · obtain ⟨v, u, hu, hk⟩ := readThen_eq_ok.mp h
    cases hk
    exact (popb_safe hu).trans (Safe.of_cpu (kept_put8 r _ u) (by simp) (by simp))
  · obtain ⟨v, u, hu, hk⟩ := readThen_eq_ok.mp h
    cases hk
    exact (popw_safe hu).trans (Safe.of_cpu (kept_put16 r _ u) (by simp) (by simp))

theorem pushReturn_safe {ra : Word} {s t : State} (h : pushReturn ra s = .ok t) : Safe s t := by
  unfold pushReturn at h
  split at h
  · obtain ⟨u, hu, ht⟩ := writeThen_eq_ok.mp h
    exact (pushw_safe hu).trans (pushb_safe ht)
  · obtain ⟨u, hu, ht⟩ := writeThen_eq_ok.mp h
    exact (pushb_safe hu).trans (pushw_safe ht)

theorem popReturn_safe {x : Byte × Word} {s t : State} (h : popReturn s = .ok (x, t)) : Safe s t := by
  unfold popReturn at h
  split at h <;>
  · obtain ⟨v, u, hu, hk⟩ := readThen_eq_ok.mp h
    obtain ⟨v', u', hu', hk⟩ := readThen_eq_ok.mp hk
    cases hk
    first
      | exact (popb_safe hu).trans (popw_safe hu')
      | exact (popw_safe hu).trans (popb_safe hu')

theorem cpuInterrupt_safe {s t : State} (h : cpuInterrupt s = .ok t) : Safe s t := by
  obtain ⟨k, sp, pc, c, hp⟩ := cpuInterrupt_keeps h
  exact ⟨k, fun _ he => by rw [c] at he ⊢; exact hp he⟩

theorem returnFromInterrupt_safe {s t : State} (h : returnFromInterrupt s = .ok t) : Safe s t := by
  obtain ⟨k, -, -, p, pc, pbr, sp, c, hp⟩ := returnFromInterrupt_keeps h
  exact ⟨k, fun _ he => by rw [c] at he ⊢; exact (hp he).2⟩

theorem over_safe {m : Mnemonic} {op : Byte} {am : Variant} {s t : State}
    (h : overVariant m op am s = some (.ok t)) : Safe s t := by
  cases m <;> simp only [overVariant, Option.some.injEq, reduceCtorEq] at h
  case BIT =>
    split at h
    · exact regOperand_safe h
    · exact regOperand_safe h
  case ADC => unfold adc at h; split at h; cases h; exact regOperand_safe h
  case SBC => unfold sbc at h; split at h; cases h; exact regOperand_safe h
  case STA | STX | STY => exact Safe.of_touched (regStore_touched h)
  case STZ => exact Safe.of_touched (stz_touched h)
  case TSB | TRB | ASL | LSR | ROL | ROR | INC | DEC => exact readModifyWrite_safe h
  all_goals exact regOperand_safe h

theorem implied_safe {m : Mnemonic} {s t : State} (h : implied m s = some (.ok t)) : Safe s t := by
  cases m <;> simp only [implied, Option.some.injEq, reduceCtorEq] at h
  case TXS =>
    cases h
    refine ⟨kept_setS s _, fun _ he => ?_⟩
    have he' : s.cpu.e = true := he
    simp [he', stackPage]
  case TCS =>
    cases h
    refine ⟨kept_setS s _, fun _ he => ?_⟩
    have he' : s.cpu.e = true := he
    simp [he', stackPage]
  case XCE =>
    cases h
    refine ⟨?_, fun _ he => ?_⟩
    · split
      · exact ((kept_setPFlag s _ _).trans (kept_setE _ _)).trans (kept_setS _ _)
      · exact (kept_setPFlag s _ _).trans (kept_setE _ _)
    · split
      · simp [stackPage]
      · rename_i hc
        split at he
        · rename_i hc'; exact absurd hc' hc
        · exact absurd he hc
  case RTI => exact returnFromInterrupt_safe h
  case RTL =>
    obtain ⟨x, u, hu, hk⟩ := readThen_eq_ok.mp h
    cases hk
    exact (popReturn_safe hu).trans (Safe.of_cpu (kept_jump u _ _) rfl rfl)
  case PLP =>
    obtain ⟨x, u, hu, hk⟩ := readThen_eq_ok.mp h
    cases hk
    exact (popb_safe hu).trans (Safe.of_cpu (kept_setP u _) rfl rfl)
  case PLB =>
    obtain ⟨x, u, hu, hk⟩ := readThen_eq_ok.mp h
    cases hk
    exact (popb_safe hu).trans (Safe.of_cpu ((kept_setDbr u _).trans (kept_setNz _ _)) rfl rfl)
  case PLD =>
    obtain ⟨x, u, hu, hk⟩ := readThen_eq_ok.mp h
    cases hk
    exact (popw_safe hu).trans (Safe.of_cpu ((kept_setD u _).trans (kept_setNz _ _)) rfl rfl)
  case PHA | PHX | PHY => exact pushReg_safe h
  case PLA | PLX | PLY => exact pullReg_safe h
  case PHP | PHB | PHK => exact pushb_safe h
  case PHD => exact pushw_safe h
  case TAX | TAY | TXA | TYA | TXY | TYX | TSX => cases h; exact transfer_safe _ _ s
  case CLC | SEC | CLI | SEI | CLD | SED | CLV => cases h; exact Safe.of_cpu (kept_setPFlag s _ _) rfl rfl
  case TSC | TDC | XBA => cases h; exact Safe.of_cpu ((kept_setReg s _ _).trans (kept_setNz _ _)) rfl rfl
  case TCD => cases h; exact Safe.of_cpu ((kept_setD s _).trans (kept_setNz _ _)) rfl rfl
  case NOP => cases h; exact Safe.of_cpu (Kept.refl _) rfl rfl
  all_goals cases h; exact regAlone_safe _ _ s

theorem branch_safe {c : Bool} {k : Byte} {s t : State} (h : branch c k s = .ok t) : Safe s t := by
  obtain ⟨x, u, hu, hk⟩ := readThen_eq_ok.mp h
  cases hk
  have hl := Safe.of_touched (address_loaded hu).toTouched
  split
  · exact hl.trans (Safe.of_cpu (kept_jump u _ _) rfl rfl)
  · exact hl

/-- Everything an instruction leaves alone, whatever it is. -/
theorem exec_safe {i : Instr} {s t : State} (h : exec i s = .next t) : Safe s t := by
  rcases exec_cases i s with ⟨am, r, -, hm, he⟩ | ⟨r, -, hm, he⟩ | ⟨k, c, -, -, he⟩ | ⟨k, rfl⟩ | ⟨k, rfl⟩
    | ⟨b, a, rfl⟩ | ⟨b, a, rfl⟩
  · rw [he, finish_eq_next] at h; rw [h] at hm; exact over_safe hm
  · rw [he, finish_eq_next] at h; rw [h] at hm; exact implied_safe hm
  · rw [he, finish_eq_next] at h; exact branch_safe h
  · have h := (finish_eq_next (r := rep k s)).mp h
    unfold rep at h
    split at h
    · cases h
    · cases h; exact Safe.of_cpu (kept_setP s _) rfl rfl
  · have h := (finish_eq_next (r := sep k s)).mp h
    unfold sep at h
    split at h
    · cases h
    · cases h; exact Safe.of_cpu (kept_setP s _) rfl rfl
  · have h := (finish_eq_next (r := jml b a s)).mp h
    cases h; exact Safe.of_cpu (kept_jump s _ _) rfl rfl
  · have h := (finish_eq_next (r := jsl b a s)).mp h
    obtain ⟨x, u, hu, hk⟩ := readThen_eq_ok.mp h
    obtain ⟨w, hw, hk⟩ := writeThen_eq_ok.mp hk
    cases hk
    exact ((Safe.of_touched (address_loaded hu).toTouched).trans (pushReturn_safe hw)).trans
      (Safe.of_cpu (kept_jump w _ _) rfl rfl)

end Sys2Proof.Machine
end

