-- ==== Sys2Proof/Laws/Step.lean ====
section
/-! SUPPORT. One dot, the two drains and the step: what each answer implies, the loops without their fuel, and the
step taken apart. -/

namespace Sys2Proof.Machine

/-! ### One dot -/

/-- What the pipeline keeps: everything but its own fields. -/
structure DotsOnly (s t : State) : Prop where
  halt  : t.halt = s.halt
  cpu   : t.cpu = s.cpu
  sched : t.sched = s.sched
  pic   : t.pic = s.pic
  mem   : t.mem = s.mem
  box   : t.box = s.box
  cfg   : t.cfg = s.cfg

theorem DotsOnly.refl (s : State) : DotsOnly s s := ⟨rfl, rfl, rfl, rfl, rfl, rfl, rfl⟩

theorem DotsOnly.trans {s t u : State} (h : DotsOnly s t) (k : DotsOnly t u) : DotsOnly s u :=
  ⟨k.halt.trans h.halt, k.cpu.trans h.cpu, k.sched.trans h.sched, k.pic.trans h.pic, k.mem.trans h.mem,
    k.box.trans h.box, k.cfg.trans h.cfg⟩

theorem rebuild_dotsOnly (l : Nat) (s : State) : DotsOnly s (rebuild l s) := ⟨rfl, rfl, rfl, rfl, rfl, rfl, rfl⟩

/-- The list just built has at most 34 descriptors (10 R47). -/
theorem rebuild_tiles_le (l : Nat) (s : State) : (rebuild l s).dots.tiles.length ≤ 34 := by
  simp only [rebuild, tileCap, List.length_take]
  omega

@[simp] theorem rebuild_tilesLine (l : Nat) (s : State) : (rebuild l s).dots.tilesLine = some l := rfl
@[simp] theorem rebuild_h (l : Nat) (s : State) : (rebuild l s).dots.h = s.dots.h := rfl
@[simp] theorem rebuild_v (l : Nat) (s : State) : (rebuild l s).dots.v = s.dots.v := rfl
@[simp] theorem rebuild_frame (l : Nat) (s : State) : (rebuild l s).dots.frame = s.dots.frame := rfl

/-- The fields of the pipeline a stage of a dot leaves well: the position, the bound of the tile list, the keys
of the pixels. -/
structure DotKept (s t : State) : Prop extends DotsOnly s t where
  h     : t.dots.h = s.dots.h
  v     : t.dots.v = s.dots.v
  tiles : s.dots.tiles.length ≤ 34 → t.dots.tiles.length ≤ 34
  frame : Rising s.dots.frame → Rising t.dots.frame

theorem DotKept.refl (s : State) : DotKept s s := ⟨DotsOnly.refl s, rfl, rfl, id, id⟩

theorem DotKept.trans {s t u : State} (h : DotKept s t) (k : DotKept t u) : DotKept s u :=
  ⟨h.toDotsOnly.trans k.toDotsOnly, k.h.trans h.h, k.v.trans h.v, k.tiles ∘ h.tiles, k.frame ∘ h.frame⟩

theorem rebuild_kept (l : Nat) (s : State) : DotKept s (rebuild l s) :=
  ⟨rebuild_dotsOnly l s, rfl, rfl, fun _ => rebuild_tiles_le l s, id⟩

theorem ensureTiles_kept (l : Nat) (s : State) : DotKept s (ensureTiles l s) := by
  unfold ensureTiles
  split
  · exact DotKept.refl s
  · exact rebuild_kept l s

/-- After a lookup the list belongs to the line looked at (10 R47, 49 R370). -/
@[simp] theorem ensureTiles_line (l : Nat) (s : State) : (ensureTiles l s).dots.tilesLine = some l := by
  unfold ensureTiles
  split
  · assumption
  · rfl

theorem ensureTiles_same {l : Nat} {s : State} (h : s.dots.tilesLine = some l) : ensureTiles l s = s := by
  rw [ensureTiles, if_pos h]

/-- A pixel changes nothing but the tile list, and that only to the line's own. -/
theorem pixel_state {x l : Nat} {s t : State} {c : Rgb} (h : pixel x l s = .ok (c, t)) : t = ensureTiles l s := by
  unfold pixel at h
  simp only at h
  split at h
  · cases h; rfl
  · split at h <;> cases h
    rfl

theorem setPixel_kept (s : State) (l x : Nat) (c : Rgb) : DotKept s (s.setPixel l x c) :=
  ⟨⟨rfl, rfl, rfl, rfl, rfl, rfl, rfl⟩, rfl, rfl, id, fun h => rising_cellPut h _ c⟩

theorem dotWork_kept {s t : State} (h : dotWork s = .ok t) : DotKept s t := by
  unfold dotWork at h
  simp only at h
  have key : ∀ u, DotKept s u →
      (if s.dots.h < s.cfg.geometry.visibleW ∧ s.dots.v < s.cfg.geometry.visibleH then
        readThen (pixel s.dots.h s.dots.v u) fun c w => .ok (w.setPixel s.dots.v s.dots.h c)
      else .ok u) = .ok t → DotKept s t := by
    intro u hu e
    split at e
    · obtain ⟨c, w, hw, e⟩ := readThen_eq_ok.mp e
      cases e
      have := pixel_state hw
      subst this
      exact (hu.trans (ensureTiles_kept _ u)).trans (setPixel_kept _ _ _ _)
    · cases e; exact hu
  refine key _ ?_ h
  split
  · exact rebuild_kept _ s
  · exact DotKept.refl s

/-- One dot: the work, then the move; the events are those of the new position (49 R361). -/
theorem ppuAdvance_eq_ok {s t : State} {ev : DotEvents} :
    ppuAdvance s = .ok (ev, t) ↔ ∃ u, dotWork s = .ok u ∧ t = dotMove u ∧ ev = dotEvents t := by
  unfold ppuAdvance
  rw [writeThen_eq_ok]
  constructor
  · rintro ⟨u, hu, e⟩; cases e; exact ⟨u, hu, rfl, rfl⟩
  · rintro ⟨u, hu, rfl, rfl⟩; exact ⟨u, hu, rfl⟩

theorem nextH_lt {g : Geometry} {h : Nat} (hh : h < g.dotsPerLine) : nextH g h < g.dotsPerLine := by
  unfold nextH; split <;> omega

theorem nextV_lt {g : Geometry} {h v : Nat} (hv : v < g.linesPerFrame) : nextV g h v < g.linesPerFrame := by
  unfold nextV; split
  · split <;> omega
  · exact hv

/-- Everything one dot does outside the tile list and the pixels. -/
theorem ppuAdvance_keeps {s t : State} {ev : DotEvents} (h : ppuAdvance s = .ok (ev, t)) :
    DotsOnly s t ∧ t.dots.h = nextH s.cfg.geometry s.dots.h ∧ t.dots.v = nextV s.cfg.geometry s.dots.h s.dots.v
      ∧ (s.dots.tiles.length ≤ 34 → t.dots.tiles.length ≤ 34)
      ∧ (Rising s.dots.frame → Rising t.dots.frame)
      ∧ ev.cycles = s.cfg.dotMasterCycles
      ∧ ev.hblank = decide (t.dots.h = s.cfg.geometry.hblankDot)
      ∧ ev.vblank = decide (t.dots.h = 0 ∧ t.dots.v = s.cfg.geometry.vblankLine) := by
  obtain ⟨u, hu, rfl, rfl⟩ := ppuAdvance_eq_ok.mp h
  have k := dotWork_kept hu
  refine ⟨⟨k.halt, k.cpu, k.sched, k.pic, k.mem, k.box, k.cfg⟩, ?_, ?_, k.tiles, k.frame, ?_, ?_, ?_⟩
  · simp only [dotMove, k.cfg, k.h]
  · simp only [dotMove, k.cfg, k.h, k.v]
  · simp only [dotEvents, dotMove_cfg, k.cfg]
  · simp only [dotEvents, dotMove_cfg, k.cfg]
  · simp only [dotEvents, dotMove_cfg, k.cfg]

/-! ### The audio drain -/

theorem apuCycles_pos (s : State) : 0 < apuCycles s := Nat.succ_pos _

/-- With enough fuel the loop ends at or below the divisor, having taken off whole audio cycles (48 R331). -/
theorem apuLoop_spec {s : State} (hd : 0 < s.cfg.apuDivisor) (fuel : Nat) (p : Int × Nat) (hf : p.1.toNat ≤ fuel) :
    (apuLoop s fuel p).1 ≤ s.cfg.apuDivisor ∧
      ∃ k : Nat, (apuLoop s fuel p).1 = p.1 - (k * s.cfg.apuDivisor : Nat) := by
  induction fuel generalizing p with
  | zero =>
    refine ⟨?_, 0, by simp [apuLoop]⟩
    simp only [apuLoop]; omega
  | succ n ih =>
    unfold apuLoop
    split
    · rename_i hgt
      have hm : s.cfg.apuDivisor ≤ apuCycles (s.withApu p) * s.cfg.apuDivisor :=
        Nat.le_mul_of_pos_left _ (apuCycles_pos _)
      obtain ⟨h1, k, h2⟩ := ih (p.1 - (apuCycles (s.withApu p) * s.cfg.apuDivisor : Nat),
        (Config.freeApuStep (s.withApu p)).hidden) (by simp only; omega)
      refine ⟨h1, apuCycles (s.withApu p) + k, ?_⟩
      rw [h2, Nat.add_mul]; push_cast; omega
    · rename_i hle
      exact ⟨by simpa using hle, 0, by simp⟩

/-- The fuel does not matter once it reaches the debt. -/
theorem apuLoop_fuel {s : State} (hd : 0 < s.cfg.apuDivisor) {n m : Nat} {p : Int × Nat} (hn : p.1.toNat ≤ n)
    (hm : p.1.toNat ≤ m) : apuLoop s n p = apuLoop s m p := by
  have idle : ∀ k, ¬ p.1 > (s.cfg.apuDivisor : Int) → apuLoop s k p = p := by
    intro k h; cases k with
    | zero => rfl
    | succ k => rw [apuLoop, if_neg h]
  induction n generalizing m p with
  | zero => rw [apuLoop, idle m (by omega)]
  | succ n ih =>
    by_cases h : p.1 > (s.cfg.apuDivisor : Int)
    · cases m with
      | zero => omega
      | succ m =>
        have hs : s.cfg.apuDivisor ≤ apuCycles (s.withApu p) * s.cfg.apuDivisor :=
          Nat.le_mul_of_pos_left _ (apuCycles_pos _)
        rw [apuLoop, apuLoop, if_pos h, if_pos h]
        refine ih (by simp only; omega) (by simp only; omega) fun k hk => ?_
        cases k with
        | zero => rfl
        | succ k => rw [apuLoop, if_neg hk]
    · rw [idle _ h, idle _ h]

/-- The audio drain without its fuel: nothing at or below the divisor, else one step and the drain again. -/
theorem apuDrain_idle {s : State} (h : ¬ s.sched.apuDebt > (s.cfg.apuDivisor : Int)) : apuDrain s = s := by
  unfold apuDrain
  cases s.sched.apuDebt.toNat with
  | zero => rfl
  | succ n => rw [apuLoop, if_neg h]; rfl

theorem apuDrain_step {s : State} (hd : 0 < s.cfg.apuDivisor) (h : s.sched.apuDebt > (s.cfg.apuDivisor : Int)) :
    apuDrain s = apuDrain (s.withApu (s.sched.apuDebt - (apuCycles s * s.cfg.apuDivisor : Nat),
      (Config.freeApuStep s).hidden)) := by
  have hs : s.cfg.apuDivisor ≤ apuCycles s * s.cfg.apuDivisor := Nat.le_mul_of_pos_left _ (apuCycles_pos _)
  have same : ∀ (q : Int × Nat) (n : Nat) (p : Int × Nat), apuLoop (s.withApu q) n p = apuLoop s n p := by
    intro q n
    induction n with
    | zero => intro p; rfl
    | succ n ih => intro p; simp only [apuLoop, State.withApu_cfg, State.withApu_withApu, ih]
  obtain ⟨n, hn⟩ : ∃ n, s.sched.apuDebt.toNat = n + 1 := ⟨s.sched.apuDebt.toNat - 1, by omega⟩
  have e : s.withApu (s.sched.apuDebt, s.box.hidden) = s := rfl
  conv => lhs; rw [apuDrain, hn, apuLoop, if_pos h, e]
  conv => rhs; rw [apuDrain]
  simp only [same, State.withApu_withApu, State.withApu_sched, State.withApu_box]
  rw [apuLoop_fuel hd (n := n) (m := (s.sched.apuDebt - (apuCycles s * s.cfg.apuDivisor : Nat)).toNat)
    (by simp only; omega) (Nat.le_refl _)]

/-- What the audio drain keeps. -/
theorem apuDrain_keeps (s : State) :
    (apuDrain s).halt = s.halt ∧ (apuDrain s).cpu = s.cpu ∧ (apuDrain s).pic = s.pic ∧ (apuDrain s).dots = s.dots
      ∧ (apuDrain s).mem = s.mem ∧ (apuDrain s).cfg = s.cfg ∧ (apuDrain s).box.latches = s.box.latches
      ∧ (apuDrain s).sched = { s.sched with apuDebt := (apuDrain s).sched.apuDebt } :=
  ⟨rfl, rfl, rfl, rfl, rfl, rfl, rfl, rfl⟩

theorem apuDrain_debt {s : State} (hd : 0 < s.cfg.apuDivisor) :
    (apuDrain s).sched.apuDebt ≤ s.cfg.apuDivisor ∧
      ∃ k : Nat, (apuDrain s).sched.apuDebt = s.sched.apuDebt - (k * s.cfg.apuDivisor : Nat) :=
  apuLoop_spec hd s.sched.apuDebt.toNat (s.sched.apuDebt, s.box.hidden) (Nat.le_refl _)

/-! ### The picture drain -/

theorem ppuLoop_idle {fuel : Nat} {s : State} (h : ¬ s.sched.ppuDebt > 0) : ppuLoop fuel s = .ok s := by
  cases fuel with
  | zero => rfl
  | succ n => rw [ppuLoop, if_neg h]

/-- The fuel does not matter once it reaches the debt. -/
theorem ppuLoop_fuel {n m : Nat} {s : State} (hc : 0 < s.cfg.dotMasterCycles)
    (hn : s.sched.ppuDebt.toNat ≤ n) (hm : s.sched.ppuDebt.toNat ≤ m) : ppuLoop n s = ppuLoop m s := by
  induction n generalizing m s with
  | zero => rw [ppuLoop_idle (by omega), ppuLoop_idle (by omega)]
  | succ n ih =>
    by_cases hp : s.sched.ppuDebt > 0
    · cases m with
      | zero => omega
      | succ m =>
        rw [ppuLoop, ppuLoop, if_pos hp, if_pos hp]
        rcases ha : ppuAdvance s with f | ⟨ev, t⟩
        · rfl
        · rw [readThen_ok, readThen_ok]
          obtain ⟨k, -, -, -, -, hcy, -, -⟩ := ppuAdvance_keeps ha
          have hs : ∀ b : Bool, (if b then onHblank (t.payDots ev.cycles) else t.payDots ev.cycles)
              = t.payDots ev.cycles := by intro b; cases b <;> rfl
          simp only [hs]
          have hd : (t.payDots ev.cycles).sched.ppuDebt = s.sched.ppuDebt - (s.cfg.dotMasterCycles : Int) := by
            simp only [State.payDots_sched, k.sched, hcy]
          have e1 : ∀ u : State, u.cfg = s.cfg →
              u.sched.ppuDebt = s.sched.ppuDebt - (s.cfg.dotMasterCycles : Int) → ppuLoop n u = ppuLoop m u := by
            intro u hu hud
            exact ih (by rw [hu]; exact hc) (by omega) (by omega)
          rw [e1 (t.payDots ev.cycles) k.cfg hd, e1 (inputLatch (t.payDots ev.cycles)) k.cfg hd]
    · rw [ppuLoop_idle hp, ppuLoop_idle hp]

/-- The state after one dot paid for. -/
theorem ppuDrain_step {s t : State} {ev : DotEvents} (hc : 0 < s.cfg.dotMasterCycles) (hp : s.sched.ppuDebt > 0)
    (ha : ppuAdvance s = .ok (ev, t)) :
    ppuDrain s =
      if ev.vblank then
        (if t.sched.nmiEnable then cpuInterrupt (inputLatch (t.payDots ev.cycles)).markIrq
         else ppuDrain (inputLatch (t.payDots ev.cycles)))
      else ppuDrain (t.payDots ev.cycles) := by
  obtain ⟨k, -, -, -, -, hcy, -, -⟩ := ppuAdvance_keeps ha
  have hd : (t.payDots ev.cycles).sched.ppuDebt = s.sched.ppuDebt - (s.cfg.dotMasterCycles : Int) := by
    simp only [State.payDots_sched, k.sched, hcy]
  have hd' : (inputLatch (t.payDots ev.cycles)).sched.ppuDebt
      = s.sched.ppuDebt - (s.cfg.dotMasterCycles : Int) := hd
  unfold ppuDrain
  obtain ⟨n, hn⟩ : ∃ n, s.sched.ppuDebt.toNat = n + 1 := ⟨s.sched.ppuDebt.toNat - 1, by omega⟩
  rw [hn, ppuLoop, if_pos hp, ha, readThen_ok]
  have hs : ∀ b : Bool, (if b then onHblank (t.payDots ev.cycles) else t.payDots ev.cycles)
      = t.payDots ev.cycles := by intro b; cases b <;> rfl
  simp only [hs, inputLatch_sched, State.payDots_sched]
  rw [ppuLoop_fuel (n := n) (m := (t.payDots ev.cycles).sched.ppuDebt.toNat)
      (by rw [State.payDots_cfg, k.cfg]; exact hc) (by omega) (Nat.le_refl _),
    ppuLoop_fuel (n := n) (m := (inputLatch (t.payDots ev.cycles)).sched.ppuDebt.toNat)
      (by rw [inputLatch_cfg, State.payDots_cfg, k.cfg]; exact hc) (by omega) (Nat.le_refl _)]
  rfl

/-- A dot that traps ends the drain. -/
theorem ppuDrain_fault {s : State} {f : Fault} (hp : s.sched.ppuDebt > 0) (ha : ppuAdvance s = .error f) :
    ppuDrain s = .error f := by
  unfold ppuDrain
  obtain ⟨n, hn⟩ : ∃ n, s.sched.ppuDebt.toNat = n + 1 := ⟨s.sched.ppuDebt.toNat - 1, by omega⟩
  rw [hn, ppuLoop, if_pos hp, ha, readThen_error]

theorem ppuDrain_idle {s : State} (h : ¬ s.sched.ppuDebt > 0) : ppuDrain s = .ok s := ppuLoop_idle h

/-- An induction over the drain: what holds of the state before and is kept by every dot and by the interrupt
holds of the state after. -/
theorem ppuDrain_induct {P : State → State → Prop} {s t : State} (hc : 0 < s.cfg.dotMasterCycles)
    (idle : ∀ s, ¬ s.sched.ppuDebt > 0 → P s s)
    (dot : ∀ s u ev t, s.sched.ppuDebt > 0 → ppuAdvance s = .ok (ev, u) → ev.vblank = false →
      P (u.payDots ev.cycles) t → P s t)
    (latch : ∀ s u ev t, s.sched.ppuDebt > 0 → ppuAdvance s = .ok (ev, u) → ev.vblank = true →
      u.sched.nmiEnable = false → P (inputLatch (u.payDots ev.cycles)) t → P s t)
    (deliver : ∀ s u ev t, s.sched.ppuDebt > 0 → ppuAdvance s = .ok (ev, u) → ev.vblank = true →
      u.sched.nmiEnable = true → cpuInterrupt (inputLatch (u.payDots ev.cycles)).markIrq = .ok t → P s t)
    (h : ppuDrain s = .ok t) : P s t := by
  generalize hn : s.sched.ppuDebt.toNat = n
  induction n using Nat.strong_induction_on generalizing s with
  | _ n ih =>
    by_cases hp : s.sched.ppuDebt > 0
    · rcases ha : ppuAdvance s with f | ⟨ev, u⟩
      · rw [ppuDrain_fault hp ha] at h; cases h
      · rw [ppuDrain_step hc hp ha] at h
        obtain ⟨k, -, -, -, -, hcy, -, -⟩ := ppuAdvance_keeps ha
        have hd : (u.payDots ev.cycles).sched.ppuDebt = s.sched.ppuDebt - (s.cfg.dotMasterCycles : Int) := by
          simp only [State.payDots_sched, k.sched, hcy]
        cases hv : ev.vblank
        · simp only [hv, Bool.false_eq_true, if_false] at h
          exact dot s u ev t hp ha hv (ih _ (by omega) (by rw [State.payDots_cfg, k.cfg]; exact hc) h rfl)
        · simp only [hv, if_true] at h
          cases he : u.sched.nmiEnable
          · simp only [he, Bool.false_eq_true, if_false] at h
            refine latch s u ev t hp ha hv he
              (ih _ ?_ (by rw [inputLatch_cfg, State.payDots_cfg, k.cfg]; exact hc) h rfl)
            have : (inputLatch (u.payDots ev.cycles)).sched.ppuDebt = (u.payDots ev.cycles).sched.ppuDebt := rfl
            omega
          · simp only [he, if_true] at h
            exact deliver s u ev t hp ha hv he h
    · rw [ppuDrain_idle hp] at h; cases h; exact idle _ hp

/-! ### The step -/

theorem finish_settle {op : Byte} {s : State} : afterExec op (.next s) = finish (settle op s) := rfl

/-- A step of a ready machine, taken apart. -/
theorem step_eq_next {s t : State} (h : step s = .next t) :
    s.Ready ∧ ∃ op i u w, fetchInstr s.clearDma = .ok ((op, i), u) ∧ exec i u = .next w ∧ settle op w = .ok t := by
  unfold step at h
  split at h
  · cases h
  · rename_i hh
    split at h
    · rename_i hc
      split at h
      · cases h
      · rename_i hd
        split at h
        · cases h
        · rename_i hv
          refine ⟨⟨hh, hc, by simpa using hd, by simpa using hv⟩, ?_⟩
          unfold iteration at h
          split at h
          · cases h
          · rename_i r hr
            obtain ⟨⟨op, i⟩, u⟩ := r
            simp only at h
            rcases he : exec i u with w | f | f
            · rw [he] at h; exact ⟨op, i, u, w, hr, he, finish_eq_next.mp h⟩
            · rw [he] at h; cases h
            · rw [he] at h; cases h
    · cases h

/-- A ready machine's step is its iteration. -/
theorem step_ready {s : State} (h : s.Ready) : step s = iteration s := by
  simp only [step, h.running, h.params, h.noHdma, h.noCounter, if_true, Bool.false_eq_true, if_false]

/-- The default `OPTABLE` recognises every byte of R100 as its own row, and no other byte (30 R100, R101). -/
theorem defaultOpTable_get (op : Byte) : defaultOpTable.get op.toFin = defaultOpRow op := by
  rw [Vector.get_eq_getElem]
  simp only [defaultOpTable, Vector.getElem_mk, List.getElem_toArray, List.getElem_map, List.getElem_range]
  congr 1
  exact BitVec.eq_of_toNat_eq (by simp)

/-- What a fetched instruction costs in state: PC past it, and what devices change. -/
theorem fetchInstr_keeps {s u : State} {r : Byte × Instr} (h : fetchInstr s = .ok (r, u)) :
    Kept s u ∧ (s.Quiet → u.mem = s.mem) ∧ u.sched.dmaCycles = s.sched.dmaCycles
      ∧ ∃ pc, u.cpu = { s.cpu with pc := pc } := by
  unfold fetchInstr at h
  obtain ⟨op, t, ht, h⟩ := readThen_eq_ok.mp h
  obtain ⟨x, hx, rfl⟩ := fetchb_eq_ok.mp ht
  have hl := busLoad_loaded hx
  split at h
  · cases h
  · split at h
    · cases h
    · obtain ⟨bs, w, hw, h⟩ := readThen_eq_ok.mp h
      split at h
      · cases h
      · cases h
        obtain ⟨k, c, m, d, -⟩ := fetchBytes_keeps hw
        have kx := hl.toKept.trans (kept_setPc x (x.cpu.pc + 1))
        refine ⟨kx.trans k, quiet_trans kx hl.sameMem m, d.trans hl.dma, u.cpu.pc, ?_⟩
        rw [c]
        simp only [State.setPc, hl.cpu]

end Sys2Proof.Machine
end

