-- ==== Sys2Proof/Tests/Slice0.lean ====
section
/-! SUPPORT. Tests and witnesses. The expected results are the spec's own: the words from its encodings (30 R99,
R100), the vectors of spec/96_test_vectors_cpu and spec/95_test_vectors, the examples of the rules. -/

namespace Sys2Proof.Machine

/-! ### Helpers: the base states of spec/95_test_vectors section 0 -/

/-- After reset, at 00:8000. -/
def emu : State := State.reset.setPc 0x8000

/-- Native mode with both widths 8. -/
def nat8 : State := emu.setE false

/-- Native mode with both widths 16. -/
def nat16 : State := nat8.setP 0x04

/-- The state with these CPU registers. -/
def State.having (s : State) (c : Cpu) : State := { s with cpu := c }

/-- The state with these bytes in memory. -/
def State.holding (s : State) (b : Byte) (o : Word) (bs : List Byte) : State := placeBytes b bs o s

/-- The state with these bytes where its next instruction is fetched. -/
def State.code (s : State) (bs : List Byte) : State := s.holding s.cpu.pbr s.cpu.pc bs

/-- The other value of CALL_STACK_ORDER. -/
def deepest (s : State) : State := { s with cfg := { s.cfg with callStackOrder := .pbrDeepest } }

/-- One CPU step without the scheduler: fetch, decode, run. -/
def instr (s : State) : Host.Outcome State Fault Refusal :=
  match fetchInstr s with
  | .error f => .fault f
  | .ok r => exec r.1.2 r.2

/-- CPU steps one after another. -/
def instrs : Nat → State → Host.Outcome State Fault Refusal
  | 0, s => .next s
  | n + 1, s =>
    match instr s with
    | .next t => instrs n t
    | .fault f => .fault f
    | .refused r => .refused r

/-- The outcome goes on with exactly these CPU registers and these bytes in memory. -/
def lands (o : Host.Outcome State Fault Refusal) (c : Cpu) (bytes : List (Byte × Word × Byte)) : Bool :=
  match o with
  | .next t => decide (t.cpu = c) && bytes.all fun x => t.byteAt x.1 x.2.1 == x.2.2
  | _ => false

/-- The outcome is this fatal trap. -/
def traps (o : Host.Outcome State Fault Refusal) (f : Fault) : Bool :=
  match o with
  | .fault g => decide (g = f)
  | _ => false

/-! ### Well-formed instructions (30 R97): each check refuses an ill-formed term -/

theorem test_wf_refuses_wide_immM : (Instr.ldaImm (.imm16 0x1234)).wf true true = false := by decide

theorem test_wf_refuses_narrow_immM : (Instr.ldaImm (.imm8 0x12)).wf false true = false := by decide

theorem test_wf_refuses_wide_immX : (Instr.ldxImm (.imm16 0x1234)).wf false true = false := by decide

theorem test_wf_refuses_narrow_immX : (Instr.cpyImm (.imm8 0x12)).wf true false = false := by decide

/-! ### Decoding: the words of spec/opcode_table with operand bytes 0x12, 0x34, 0x56 -/

theorem test_decode_sixteen_bit_immediates :
    decode false true [0xA9, 0x34, 0x12] = .ok (.ldaImm (.imm16 0x1234), []) ∧
      decode true false [0xE0, 0x34, 0x12] = .ok (.cpxImm (.imm16 0x1234), []) := ⟨rfl, rfl⟩

theorem test_decode_rejects :
    decode true true [] = .error .empty ∧ decode true true [0x42, 0x00] = .error (.illegalOpcode 0x42) ∧
      decode true true [0xAF, 0x12, 0x34] = .error (.truncated 0xAF) := ⟨rfl, rfl, rfl⟩

theorem test_decode_loads_and_stores_2a :
    [0x1264, 0x1274, 0x1284, 0x1294, 0x1285, 0x1295, 0x1297, 0x1286, 0x12A0, 0x12A4, 0x12B4, 0x12A2, 0x12A6,
      0x12A5, 0x12A9, 0x12B5].map (decodeTableWord 16)
      = [.stzDp 0x12, .stzDpx 0x12, .styDp 0x12, .styDpx 0x12, .staDp 0x12, .staDpx 0x12, .staIly 0x12, .stxDp
        0x12, .ldyImm (.imm8 0x12), .ldyDp 0x12, .ldyDpx 0x12, .ldxImm (.imm8 0x12), .ldxDp 0x12, .ldaDp 0x12,
        .ldaImm (.imm8 0x12), .ldaDpx 0x12].map some := by decide

theorem test_decode_loads_and_stores_2b :
    [0x12B7].map (decodeTableWord 16)
      = [.ldaIly 0x12].map some := by decide

theorem test_decode_loads_and_stores_3 :
    [0x34129C, 0x34129E, 0x34128C, 0x34128D, 0x34129D, 0x34128E, 0x3412AC, 0x3412BC, 0x3412AE, 0x3412AD,
      0x3412BD].map (decodeTableWord 24)
      = [.stzAbs 0x3412, .stzAbsx 0x3412, .styAbs 0x3412, .staAbs 0x3412, .staAbsx 0x3412, .stxAbs 0x3412,
        .ldyAbs 0x3412, .ldyAbsx 0x3412, .ldxAbs 0x3412, .ldaAbs 0x3412, .ldaAbsx 0x3412].map some := by
        decide

theorem test_decode_loads_and_stores_4 :
    [0x5634128F, 0x5634129F, 0x563412AF, 0x563412BF].map (decodeTableWord 32)
      = [.staLong 0x56 0x3412, .staLongx 0x56 0x3412, .ldaLong 0x56 0x3412, .ldaLongx 0x56 0x3412].map some :=
        by decide

theorem test_decode_arithmetic_2a :
    [0x1204, 0x1205, 0x1209, 0x1215, 0x1217, 0x1214, 0x1224, 0x1234, 0x1289, 0x1225, 0x1229, 0x1235, 0x1237,
      0x1245, 0x1249, 0x1255].map (decodeTableWord 16)
      = [.tsbDp 0x12, .oraDp 0x12, .oraImm (.imm8 0x12), .oraDpx 0x12, .oraIly 0x12, .trbDp 0x12, .bitDp 0x12,
        .bitDpx 0x12, .bitImm (.imm8 0x12), .andDp 0x12, .andImm (.imm8 0x12), .andDpx 0x12, .andIly 0x12,
        .eorDp 0x12, .eorImm (.imm8 0x12), .eorDpx 0x12].map some := by decide

theorem test_decode_arithmetic_2b :
    [0x1257, 0x1265, 0x1269, 0x1275, 0x1277, 0x12C0, 0x12C4, 0x12C5, 0x12C9, 0x12D5, 0x12D7, 0x12E0, 0x12E4,
      0x12E5, 0x12E9, 0x12F5].map (decodeTableWord 16)
      = [.eorIly 0x12, .adcDp 0x12, .adcImm (.imm8 0x12), .adcDpx 0x12, .adcIly 0x12, .cpyImm (.imm8 0x12),
        .cpyDp 0x12, .cmpDp 0x12, .cmpImm (.imm8 0x12), .cmpDpx 0x12, .cmpIly 0x12, .cpxImm (.imm8 0x12),
        .cpxDp 0x12, .sbcDp 0x12, .sbcImm (.imm8 0x12), .sbcDpx 0x12].map some := by decide

theorem test_decode_arithmetic_2c :
    [0x12F7].map (decodeTableWord 16)
      = [.sbcIly 0x12].map some := by decide

theorem test_decode_arithmetic_3a :
    [0x34120C, 0x34120D, 0x34121D, 0x34121C, 0x34122C, 0x34123C, 0x34122D, 0x34123D, 0x34124D, 0x34125D,
      0x34126D, 0x34127D, 0x3412CC, 0x3412CD, 0x3412DD, 0x3412EC].map (decodeTableWord 24)
      = [.tsbAbs 0x3412, .oraAbs 0x3412, .oraAbsx 0x3412, .trbAbs 0x3412, .bitAbs 0x3412, .bitAbsx 0x3412,
        .andAbs 0x3412, .andAbsx 0x3412, .eorAbs 0x3412, .eorAbsx 0x3412, .adcAbs 0x3412, .adcAbsx 0x3412,
        .cpyAbs 0x3412, .cmpAbs 0x3412, .cmpAbsx 0x3412, .cpxAbs 0x3412].map some := by decide

theorem test_decode_arithmetic_3b :
    [0x3412ED, 0x3412FD].map (decodeTableWord 24)
      = [.sbcAbs 0x3412, .sbcAbsx 0x3412].map some := by decide

theorem test_decode_arithmetic_4 :
    [0x5634120F, 0x5634121F, 0x5634122F, 0x5634123F, 0x5634124F, 0x5634125F, 0x5634126F, 0x5634127F, 0x563412CF,
      0x563412DF, 0x563412EF, 0x563412FF].map (decodeTableWord 32)
      = [.oraLong 0x56 0x3412, .oraLongx 0x56 0x3412, .andLong 0x56 0x3412, .andLongx 0x56 0x3412, .eorLong
        0x56 0x3412, .eorLongx 0x56 0x3412, .adcLong 0x56 0x3412, .adcLongx 0x56 0x3412, .cmpLong 0x56 0x3412,
        .cmpLongx 0x56 0x3412, .sbcLong 0x56 0x3412, .sbcLongx 0x56 0x3412].map some := by decide

theorem test_decode_shifts_1 :
    [0x0A, 0x1A, 0x2A, 0x3A, 0x4A, 0x6A, 0x88, 0xC8, 0xCA, 0xE8].map (decodeTableWord 8)
      = [.aslAcc, .incAcc, .rolAcc, .decAcc, .lsrAcc, .rorAcc, .dey, .iny, .dex, .inx].map some := by decide

theorem test_decode_shifts_2 :
    [0x1206, 0x1216, 0x12E6, 0x12F6, 0x1226, 0x1236, 0x12C6, 0x12D6, 0x1246, 0x1256, 0x1266, 0x1276].map
      (decodeTableWord 16)
      = [.aslDp 0x12, .aslDpx 0x12, .incDp 0x12, .incDpx 0x12, .rolDp 0x12, .rolDpx 0x12, .decDp 0x12, .decDpx
        0x12, .lsrDp 0x12, .lsrDpx 0x12, .rorDp 0x12, .rorDpx 0x12].map some := by decide

theorem test_decode_shifts_3 :
    [0x34120E, 0x34121E, 0x3412EE, 0x3412FE, 0x34122E, 0x34123E, 0x3412CE, 0x3412DE, 0x34124E, 0x34125E,
      0x34126E, 0x34127E].map (decodeTableWord 24)
      = [.aslAbs 0x3412, .aslAbsx 0x3412, .incAbs 0x3412, .incAbsx 0x3412, .rolAbs 0x3412, .rolAbsx 0x3412,
        .decAbs 0x3412, .decAbsx 0x3412, .lsrAbs 0x3412, .lsrAbsx 0x3412, .rorAbs 0x3412, .rorAbsx 0x3412].map
        some := by decide

theorem test_decode_transfers_1 :
    [0x1B, 0x3B, 0x5B, 0x7B, 0x8A, 0x98, 0x9A, 0x9B, 0xA8, 0xAA, 0xBA, 0xBB, 0xEB].map (decodeTableWord 8)
      = [.tcs, .tsc, .tcd, .tdc, .txa, .tya, .txs, .txy, .tay, .tax, .tsx, .tyx, .xba].map some := by decide

theorem test_decode_stack_1 :
    [0x08, 0x0B, 0x28, 0x2B, 0x48, 0x4B, 0x5A, 0x68, 0x7A, 0x8B, 0xAB, 0xDA, 0xFA].map (decodeTableWord 8)
      = [.php, .phd, .plp, .pld, .pha, .phk, .phy, .pla, .ply, .phb, .plb, .phx, .plx].map some := by decide

theorem test_decode_control_1 :
    [0x6B].map (decodeTableWord 8)
      = [.rtl].map some := by decide

theorem test_decode_control_2 :
    [0x1210, 0x1230, 0x1250, 0x1270, 0x1280, 0x1290, 0x12B0, 0x12D0, 0x12F0].map (decodeTableWord 16)
      = [.bpl 0x12, .bmi 0x12, .bvc 0x12, .bvs 0x12, .bra 0x12, .bcc 0x12, .bcs 0x12, .bne 0x12, .beq
        0x12].map some := by decide

theorem test_decode_control_4 :
    [0x56341222, 0x5634125C].map (decodeTableWord 32)
      = [.jsl 0x56 0x3412, .jml 0x56 0x3412].map some := by decide

theorem test_decode_status_1 :
    [0x18, 0x38, 0x40, 0x58, 0x78, 0xB8, 0xD8, 0xEA, 0xF8, 0xFB].map (decodeTableWord 8)
      = [.clc, .sec, .rti, .cli, .sei, .clv, .cld, .nop, .sed, .xce].map some := by decide

theorem test_decode_status_2 :
    [0x12C2, 0x12E2].map (decodeTableWord 16)
      = [.rep 0x12, .sep 0x12].map some := by decide

/-! ### Addressing modes: spec/96_test_vectors_cpu, vectors D -/

theorem test_lda_D5 :
    traps (instr ((nat16.having { nat16.cpu with x := 0x0001, dbr := 0x7E }).code [0xBD, 0xFF, 0xFF]))
      (.indexOverflow16 0x7E 0xFFFF 0x0001) = true := by decide

theorem test_lda_D6 :
    lands (instr (((emu.having { emu.cpu with x := 0x0001 }).code [0xBF, 0xFF, 0xFF, 0x7E]).holding
        0x7F 0x0000 [0x42]))
      { emu.cpu with x := 0x0001, a := 0x0042, pc := 0x8004, p := 0x34 } [] = true := by decide

theorem test_lda_D7 :
    traps (instr ((emu.having { emu.cpu with x := 0x0001 }).code [0xBF, 0xFF, 0xFF, 0xFF]))
      (.addressOverflow24 0xFF 0xFFFF 0x0001) = true := by decide

theorem test_lda_D8 :
    lands (instr (((emu.having { emu.cpu with d := 0xFF80 }).code [0xA5, 0x90]).holding 0x00 0x0010 [0x77]))
      { emu.cpu with d := 0xFF80, a := 0x0077, pc := 0x8002, p := 0x34 } [] = true := by decide

theorem test_lda_D10 :
    traps (instr (((nat16.having { nat16.cpu with d := 0xFF00 }).code [0xA5, 0xFF]).holding 0x00 0xFFFF [0x12]))
      (.wordCrossesBank 0x00 0xFFFF) = true := by decide

theorem test_lda_D11 :
    lands (instr ((((emu.having { emu.cpu with y := 0x0002 }).code [0xB7, 0x10]).holding 0x00 0x0010 [0xFE, 0xFF, 0x7E]).holding
        0x7F 0x0000 [0x3C]))
      { emu.cpu with y := 0x0002, a := 0x003C, pc := 0x8002, p := 0x34 } [] = true := by decide

theorem test_lda_D12 :
    traps (instr ((emu.having { emu.cpu with d := 0xFF00 }).code [0xB7, 0xFE]))
      (.pointerCrossesBank 0xFFFE) = true := by decide

theorem test_lda_D13 :
    traps (instr (((emu.having { emu.cpu with y := 0x0001 }).code [0xB7, 0x10]).holding
        0x00 0x0010 [0xFF, 0xFF, 0xFF]))
      (.addressOverflow24 0xFF 0xFFFF 0x0001) = true := by decide

theorem test_sta_D14 :
    traps (instr ((nat16.having { nat16.cpu with a := 0xBEEF }).code [0x8F, 0xFF, 0xFF, 0x01]))
      (.wordCrossesBank 0x01 0xFFFF) = true := by decide

theorem test_lda_D16 :
    lands (instr ((emu.having { emu.cpu with pc := 0xFFFF, pbr := 0x01 }).code [0xA9, 0x7F]))
      { emu.cpu with pc := 0x0001, pbr := 0x01, a := 0x007F, p := 0x34 } [] = true := by decide

/-! ### Loads and stores: spec/96_test_vectors_cpu, vectors L -/

theorem test_lda_L1 :
    lands (instr ((emu.having { emu.cpu with a := 0x12FF }).code [0xA9, 0x00]))
      { emu.cpu with a := 0x1200, p := 0x36, pc := 0x8002 } [] = true := by decide

theorem test_ldx_L3 :
    lands (instr ((nat8.having { nat8.cpu with p := 0x24 }).code [0xA2, 0x34, 0x12]))
      { nat8.cpu with p := 0x24, x := 0x1234, pc := 0x8003 } [] = true := by decide

theorem test_ldy_L4 :
    lands (instr ((emu.having { emu.cpu with y := 0x5500 }).code [0xA0, 0x80]))
      { emu.cpu with y := 0x5580, p := 0xB4, pc := 0x8002 } [] = true := by decide

theorem test_sta_L8 :
    lands (instr ((emu.having { emu.cpu with a := 0x12AB, dbr := 0x7E }).code [0x8D, 0x00, 0x20]))
      { emu.cpu with a := 0x12AB, dbr := 0x7E, pc := 0x8003, p := 0x34 } [(0x7E, 0x2000, 0xAB)] = true := by decide

theorem test_sta_L9 :
    lands (instr ((nat16.having { nat16.cpu with a := 0x12AB, dbr := 0x7E }).code [0x8D, 0x00, 0x20]))
      { nat16.cpu with a := 0x12AB, dbr := 0x7E, pc := 0x8003, p := 0x04 } [(0x7E, 0x2000, 0xAB), (0x7E, 0x2001, 0x12)] = true := by decide

theorem test_stx_L10 :
    lands (instr ((emu.having { emu.cpu with x := 0xAB07 }).code [0x86, 0x10]))
      { emu.cpu with x := 0xAB07, pc := 0x8002, p := 0x34 } [(0x00, 0x0010, 0x07)] = true := by decide

theorem test_sty_L11 :
    lands (instr ((nat16.having { nat16.cpu with y := 0xBEEF, dbr := 0x7E }).code [0x8C, 0x00, 0x20]))
      { nat16.cpu with y := 0xBEEF, dbr := 0x7E, pc := 0x8003, p := 0x04 } [(0x7E, 0x2000, 0xEF), (0x7E, 0x2001, 0xBE)] = true := by decide

theorem test_stz_L12 :
    lands (instr (((nat16.having { nat16.cpu with x := 0x0004 }).code [0x9E, 0x00, 0x02]).holding
        0x00 0x0204 [0xAA, 0xBB]))
      { nat16.cpu with x := 0x0004, pc := 0x8003, p := 0x04 } [(0x00, 0x0204, 0x00), (0x00, 0x0205, 0x00)] = true := by decide

theorem test_stz_L13 :
    lands (instr (((nat8.having { nat8.cpu with p := 0x24 }).code [0x64, 0x10]).holding 0x00 0x0010 [0xAA, 0xBB]))
      { nat8.cpu with p := 0x24, pc := 0x8002 } [(0x00, 0x0010, 0x00)] = true := by decide

/-! ### Arithmetic, logic, compares, bit tests: spec/96_test_vectors_cpu, vectors A -/

theorem test_adc_A3 :
    lands (instr ((emu.having { emu.cpu with a := 0x12FF, p := 0x35 }).code [0x69, 0x00]))
      { emu.cpu with a := 0x1200, p := 0x37, pc := 0x8002 } [] = true := by decide

theorem test_adc_A5 :
    lands (instr ((nat16.having { nat16.cpu with a := 0x8000 }).code [0x69, 0x00, 0x80]))
      { nat16.cpu with a := 0x0000, p := 0x47, pc := 0x8003 } [] = true := by decide

theorem test_adc_A7 :
    traps (instr (((emu.having { emu.cpu with a := 0x0009, p := 0x3C }).code [0x6D, 0x00, 0x20]).holding
        0x00 0x2000 [0x01]))
      (.decimalArithmetic 0x6D 0x00 0x8000) = true := by decide

theorem test_sbc_A10 :
    lands (instr ((emu.having { emu.cpu with a := 0x0080, p := 0x35 }).code [0xE9, 0x01]))
      { emu.cpu with a := 0x007F, p := 0x75, pc := 0x8002 } [] = true := by decide

theorem test_sbc_A12 :
    lands (instr ((nat16.having { nat16.cpu with a := 0x0000, p := 0x05 }).code [0xE9, 0x01, 0x00]))
      { nat16.cpu with a := 0xFFFF, p := 0x84, pc := 0x8003 } [] = true := by decide

theorem test_and_A14 :
    lands (instr ((emu.having { emu.cpu with a := 0xFFF0 }).code [0x29, 0x0F]))
      { emu.cpu with a := 0xFF00, p := 0x36, pc := 0x8002 } [] = true := by decide

theorem test_ora_A16 :
    lands (instr ((emu.having { emu.cpu with a := 0x0001 }).code [0x09, 0x80]))
      { emu.cpu with a := 0x0081, p := 0xB4, pc := 0x8002 } [] = true := by decide

theorem test_ora_A17 :
    lands (instr (((nat16.having { nat16.cpu with a := 0x0000, x := 0x0002 }).code [0x15, 0x10]).holding
        0x00 0x0012 [0x00, 0x00]))
      { nat16.cpu with a := 0x0000, x := 0x0002, p := 0x06, pc := 0x8002 } [] = true := by decide

theorem test_eor_A18 :
    lands (instr ((emu.having { emu.cpu with a := 0x00FF }).code [0x49, 0xFF]))
      { emu.cpu with a := 0x0000, p := 0x36, pc := 0x8002 } [] = true := by decide

theorem test_eor_A19 :
    lands (instr ((nat16.having { nat16.cpu with a := 0x00FF }).code [0x49, 0xFF, 0xFF]))
      { nat16.cpu with a := 0xFF00, p := 0x84, pc := 0x8003 } [] = true := by decide

theorem test_cmp_A21 :
    lands (instr ((emu.having { emu.cpu with a := 0x0040 }).code [0xC9, 0x41]))
      { emu.cpu with a := 0x0040, p := 0xB4, pc := 0x8002 } [] = true := by decide

theorem test_cpx_A23 :
    lands (instr ((nat8.having { nat8.cpu with p := 0x24, x := 0x2000 }).code [0xE0, 0x00, 0x10]))
      { nat8.cpu with p := 0x25, x := 0x2000, pc := 0x8003 } [] = true := by decide

theorem test_cpy_A24 :
    lands (instr ((emu.having { emu.cpu with y := 0xFF10 }).code [0xC0, 0x10]))
      { emu.cpu with y := 0xFF10, p := 0x37, pc := 0x8002 } [] = true := by decide

theorem test_bit_A26 :
    lands (instr ((emu.having { emu.cpu with a := 0x0001, p := 0x34 }).code [0x89, 0x80]))
      { emu.cpu with a := 0x0001, p := 0x36, pc := 0x8002 } [] = true := by decide

theorem test_bit_A27 :
    lands (instr (((emu.having { emu.cpu with a := 0x0001 }).code [0x24, 0x10]).holding 0x00 0x0010 [0xC0]))
      { emu.cpu with a := 0x0001, p := 0xF6, pc := 0x8002 } [] = true := by decide

theorem test_tsb_A29 :
    lands (instr (((emu.having { emu.cpu with a := 0x000F }).code [0x04, 0x10]).holding 0x00 0x0010 [0xF0]))
      { emu.cpu with a := 0x000F, p := 0x36, pc := 0x8002 } [(0x00, 0x0010, 0xFF)] = true := by decide

theorem test_trb_A32 :
    lands (instr (((nat16.having { nat16.cpu with a := 0xFF00 }).code [0x1C, 0x00, 0x20]).holding
        0x00 0x2000 [0x34, 0x12]))
      { nat16.cpu with a := 0xFF00, pc := 0x8003, p := 0x04 } [(0x00, 0x2000, 0x34), (0x00, 0x2001, 0x00)] = true := by decide

/-! ### Shifts, increments, decrements: spec/96_test_vectors_cpu, vectors S -/

theorem test_asl_S1 :
    lands (instr ((emu.having { emu.cpu with a := 0x1281 }).code [0x0A]))
      { emu.cpu with a := 0x1202, p := 0x35, pc := 0x8001 } [] = true := by decide

theorem test_asl_S3 :
    lands (instr ((nat16.code [0x06, 0x10]).holding 0x00 0x0010 [0x80, 0x40]))
      { nat16.cpu with p := 0x84, pc := 0x8002 } [(0x00, 0x0010, 0x00), (0x00, 0x0011, 0x81)] = true := by decide

theorem test_lsr_S4 :
    lands (instr ((emu.having { emu.cpu with a := 0x0001 }).code [0x4A]))
      { emu.cpu with a := 0x0000, p := 0x37, pc := 0x8001 } [] = true := by decide

theorem test_lsr_S5 :
    lands (instr (((emu.having { emu.cpu with x := 0x0001 }).code [0x5E, 0x00, 0x20]).holding 0x00 0x2001 [0x82]))
      { emu.cpu with x := 0x0001, pc := 0x8003, p := 0x34 } [(0x00, 0x2001, 0x41)] = true := by decide

theorem test_rol_S6 :
    lands (instr ((emu.having { emu.cpu with a := 0x0080, p := 0x35 }).code [0x2A]))
      { emu.cpu with a := 0x0001, p := 0x35, pc := 0x8001 } [] = true := by decide

theorem test_ror_S9 :
    lands (instr ((nat16.having { nat16.cpu with a := 0x0001, p := 0x05 }).code [0x6A]))
      { nat16.cpu with a := 0x8000, p := 0x85, pc := 0x8001 } [] = true := by decide

theorem test_inc_S11 :
    lands (instr ((emu.code [0xE6, 0x10]).holding 0x00 0x0010 [0xFF]))
      { emu.cpu with p := 0x36, pc := 0x8002 } [(0x00, 0x0010, 0x00)] = true := by decide

theorem test_inc_S13 :
    traps (instr ((nat16.having { nat16.cpu with dbr := 0x7E }).code [0xEE, 0xFF, 0xFF]))
      (.wordCrossesBank 0x7E 0xFFFF) = true := by decide

theorem test_dec_S14 :
    lands (instr ((emu.having { emu.cpu with a := 0x3400 }).code [0x3A]))
      { emu.cpu with a := 0x34FF, p := 0xB4, pc := 0x8001 } [] = true := by decide

theorem test_inx_S16 :
    lands (instr ((emu.having { emu.cpu with x := 0xABFF }).code [0xE8]))
      { emu.cpu with x := 0xAB00, p := 0x36, pc := 0x8001 } [] = true := by decide

theorem test_iny_S18 :
    lands (instr ((nat16.having { nat16.cpu with y := 0x7FFF }).code [0xC8]))
      { nat16.cpu with y := 0x8000, p := 0x84, pc := 0x8001 } [] = true := by decide

theorem test_dex_S19 :
    lands (instr ((emu.having { emu.cpu with x := 0x0001 }).code [0xCA]))
      { emu.cpu with x := 0x0000, p := 0x36, pc := 0x8001 } [] = true := by decide

theorem test_dey_S20 :
    lands (instr ((nat16.having { nat16.cpu with y := 0x0000 }).code [0x88]))
      { nat16.cpu with y := 0xFFFF, p := 0x84, pc := 0x8001 } [] = true := by decide

/-! ### Transfers: spec/96_test_vectors_cpu, vectors T -/

theorem test_tax_T1 :
    lands (instr ((nat8.having { nat8.cpu with p := 0x24, a := 0x12FF }).code [0xAA]))
      { nat8.cpu with p := 0x24, a := 0x12FF, x := 0x12FF, pc := 0x8001 } [] = true := by decide

theorem test_tay_T2 :
    lands (instr ((emu.having { emu.cpu with a := 0x0080, y := 0x3400 }).code [0xA8]))
      { emu.cpu with a := 0x0080, y := 0x3480, p := 0xB4, pc := 0x8001 } [] = true := by decide

theorem test_txa_T3 :
    lands (instr ((nat8.having { nat8.cpu with p := 0x14, x := 0xAB07 }).code [0x8A]))
      { nat8.cpu with p := 0x14, x := 0xAB07, a := 0x0007, pc := 0x8001 } [] = true := by decide

theorem test_tya_T4 :
    lands (instr ((emu.having { emu.cpu with a := 0x55AA, y := 0x0000 }).code [0x98]))
      { emu.cpu with a := 0x5500, y := 0x0000, p := 0x36, pc := 0x8001 } [] = true := by decide

theorem test_txy_T5 :
    lands (instr ((nat16.having { nat16.cpu with x := 0x8000 }).code [0x9B]))
      { nat16.cpu with x := 0x8000, y := 0x8000, p := 0x84, pc := 0x8001 } [] = true := by decide

theorem test_tyx_T6 :
    lands (instr ((emu.having { emu.cpu with y := 0x1200, x := 0x34FF }).code [0xBB]))
      { emu.cpu with y := 0x1200, x := 0x3400, p := 0x36, pc := 0x8001 } [] = true := by decide

theorem test_tsx_T7 :
    lands (instr (emu.code [0xBA]))
      { emu.cpu with x := 0x00FF, p := 0xB4, pc := 0x8001 } [] = true := by decide

theorem test_txs_T9 :
    lands (instr ((emu.having { emu.cpu with x := 0x2280 }).code [0x9A]))
      { emu.cpu with x := 0x2280, s := 0x0180, pc := 0x8001, p := 0x34 } [] = true := by decide

theorem test_txs_T10 :
    lands (instr ((nat8.having { nat8.cpu with x := 0x2280 }).code [0x9A]))
      { nat8.cpu with x := 0x2280, s := 0x0080, pc := 0x8001, p := 0x34 } [] = true := by decide

theorem test_tcs_T12 :
    lands (instr ((emu.having { emu.cpu with a := 0x55EF }).code [0x1B]))
      { emu.cpu with a := 0x55EF, s := 0x01EF, pc := 0x8001, p := 0x34 } [] = true := by decide

theorem test_tsc_T14 :
    lands (instr ((emu.having { emu.cpu with a := 0xFFFF, s := 0x01FC }).code [0x3B]))
      { emu.cpu with a := 0x01FC, s := 0x01FC, pc := 0x8001, p := 0x34 } [] = true := by decide

theorem test_tcd_T15 :
    lands (instr ((emu.having { emu.cpu with a := 0x8100 }).code [0x5B]))
      { emu.cpu with a := 0x8100, d := 0x8100, p := 0xB4, pc := 0x8001 } [] = true := by decide

theorem test_tdc_T16 :
    lands (instr ((nat16.having { nat16.cpu with a := 0x1234, d := 0x0000 }).code [0x7B]))
      { nat16.cpu with a := 0x0000, d := 0x0000, p := 0x06, pc := 0x8001 } [] = true := by decide

theorem test_xba_T18 :
    lands (instr ((nat16.having { nat16.cpu with a := 0x00FF }).code [0xEB]))
      { nat16.cpu with a := 0xFF00, p := 0x06, pc := 0x8001 } [] = true := by decide

/-! ### The stack: spec/96_test_vectors_cpu, vectors K -/

theorem test_pha_K1 :
    lands (instr ((nat16.having { nat16.cpu with a := 0x1234 }).code [0x48]))
      { nat16.cpu with a := 0x1234, s := 0x01FD, pc := 0x8001, p := 0x04 } [(0x00, 0x01FF, 0x12), (0x00, 0x01FE, 0x34)] = true := by decide

theorem test_pla_K4 :
    lands (instr (((emu.having { emu.cpu with a := 0x1200, s := 0x01FE }).code [0x68]).holding 0x00 0x01FF [0x80]))
      { emu.cpu with a := 0x1280, s := 0x01FF, p := 0xB4, pc := 0x8001 } [] = true := by decide

theorem test_phd_K5 :
    lands (instr ((emu.having { emu.cpu with d := 0xBEEF, s := 0x0100 }).code [0x0B]))
      { emu.cpu with d := 0xBEEF, s := 0x01FE, pc := 0x8001, p := 0x34 } [(0x00, 0x0100, 0xBE), (0x00, 0x01FF, 0xEF)] = true := by decide

theorem test_pld_K6 :
    lands (instr ((((emu.having { emu.cpu with s := 0x01FE }).code [0x2B]).holding 0x00 0x01FF [0xEF]).holding
        0x00 0x0100 [0xBE]))
      { emu.cpu with s := 0x0100, d := 0xBEEF, p := 0xB4, pc := 0x8001 } [] = true := by decide

theorem test_php_K8 :
    lands (instr (emu.code [0x08]))
      { emu.cpu with s := 0x01FE, pc := 0x8001, p := 0x34 } [(0x00, 0x01FF, 0x34)] = true := by decide

theorem test_plp_K9 :
    lands (instr (((nat16.having { nat16.cpu with s := 0x01FE }).code [0x28]).holding 0x00 0x01FF [0xF1]))
      { nat16.cpu with s := 0x01FF, p := 0xF1, pc := 0x8001 } [] = true := by decide

theorem test_phb_K10 :
    lands (instr ((emu.having { emu.cpu with dbr := 0x7E, s := 0x01F0 }).code [0x8B]))
      { emu.cpu with dbr := 0x7E, s := 0x01EF, pc := 0x8001, p := 0x34 } [(0x00, 0x01F0, 0x7E)] = true := by decide

theorem test_plb_K11 :
    lands (instr (((emu.having { emu.cpu with s := 0x01FE }).code [0xAB]).holding 0x00 0x01FF [0x80]))
      { emu.cpu with s := 0x01FF, dbr := 0x80, p := 0xB4, pc := 0x8001 } [] = true := by decide

theorem test_phk_K12 :
    lands (instr ((emu.having { emu.cpu with pbr := 0x80 }).code [0x4B]))
      { emu.cpu with pbr := 0x80, s := 0x01FE, pc := 0x8001, p := 0x34 } [(0x00, 0x01FF, 0x80)] = true := by decide

theorem test_phx_K13 :
    lands (instrs 2 ((nat16.having { nat16.cpu with x := 0xABCD }).code [0xDA, 0x7A]))
      { nat16.cpu with x := 0xABCD, y := 0xABCD, p := 0x84, pc := 0x8002 } [(0x00, 0x01FF, 0xAB), (0x00, 0x01FE, 0xCD)] = true := by decide

theorem test_phy_K14 :
    lands (instrs 2 ((emu.having { emu.cpu with y := 0x0000, x := 0x11FF }).code [0x5A, 0xFA]))
      { emu.cpu with y := 0x0000, x := 0x1100, p := 0x36, pc := 0x8002 } [(0x00, 0x01FF, 0x00)] = true := by decide

/-! ### Control flow: spec/96_test_vectors_cpu, vectors B -/

theorem test_beq_B1 :
    lands (instr ((emu.having { emu.cpu with p := 0x36 }).code [0xF0, 0x05]))
      { emu.cpu with p := 0x36, pc := 0x8007 } [] = true := by decide

theorem test_bne_B3 :
    lands (instr ((emu.having { emu.cpu with pc := 0x8012 }).code [0xD0, 0xF9]))
      { emu.cpu with pc := 0x800D, p := 0x34 } [] = true := by decide

theorem test_bra_B5 :
    lands (instr ((emu.having { emu.cpu with pc := 0xFFFE, pbr := 0x02 }).code [0x80, 0x04]))
      { emu.cpu with pc := 0x0004, pbr := 0x02, p := 0x34 } [] = true := by decide

theorem test_bpl_B8 :
    lands (instr ((emu.having { emu.cpu with p := 0x34 }).code [0x10, 0x10]))
      { emu.cpu with p := 0x34, pc := 0x8012 } [] = true := by decide

theorem test_bmi_B9 :
    lands (instr ((emu.having { emu.cpu with p := 0x34 }).code [0x30, 0x10]))
      { emu.cpu with p := 0x34, pc := 0x8002 } [] = true := by decide

theorem test_bvc_B11 :
    lands (instr ((emu.having { emu.cpu with p := 0x34 }).code [0x50, 0x7F]))
      { emu.cpu with p := 0x34, pc := 0x8081 } [] = true := by decide

theorem test_bvs_B12 :
    lands (instr ((emu.having { emu.cpu with p := 0x74 }).code [0x70, 0x7F]))
      { emu.cpu with p := 0x74, pc := 0x8081 } [] = true := by decide

theorem test_bcc_B13 :
    lands (instr ((emu.having { emu.cpu with p := 0x35 }).code [0x90, 0x10]))
      { emu.cpu with p := 0x35, pc := 0x8002 } [] = true := by decide

theorem test_bcs_B14 :
    lands (instr ((emu.having { emu.cpu with p := 0x35 }).code [0xB0, 0x10]))
      { emu.cpu with p := 0x35, pc := 0x8012 } [] = true := by decide

theorem test_jml_B15 :
    lands (instr (emu.code [0x5C, 0x34, 0x12, 0x7E]))
      { emu.cpu with pbr := 0x7E, pc := 0x1234, p := 0x34 } [] = true := by decide

theorem test_jsl_B16 :
    lands (instr (nat8.code [0x22, 0x34, 0x12, 0x01]))
      { nat8.cpu with s := 0x01FC, pbr := 0x01, pc := 0x1234, p := 0x34 } [(0x00, 0x01FF, 0x80), (0x00, 0x01FE, 0x03), (0x00, 0x01FD, 0x00)] = true := by decide

theorem test_jsl_B17 :
    lands (instr ((deepest nat8).code [0x22, 0x34, 0x12, 0x01]))
      { nat8.cpu with s := 0x01FC, pbr := 0x01, pc := 0x1234, p := 0x34 } [(0x00, 0x01FF, 0x00), (0x00, 0x01FE, 0x80), (0x00, 0x01FD, 0x03)] = true := by decide

theorem test_rtl_B18 :
    lands (instr (((nat8.having { nat8.cpu with s := 0x01FC, pbr := 0x01, pc := 0x1240 }).code [0x6B]).holding
        0x00 0x01FD [0x00, 0x03, 0x80]))
      { nat8.cpu with s := 0x01FF, pbr := 0x00, pc := 0x8004, p := 0x34 } [] = true := by decide

/-! ### Status and mode: spec/96_test_vectors_cpu, vectors M -/

theorem test_clc_M1 :
    lands (instr ((emu.having { emu.cpu with p := 0x35 }).code [0x18]))
      { emu.cpu with p := 0x34, pc := 0x8001 } [] = true := by decide

theorem test_sec_M2 :
    lands (instr (emu.code [0x38]))
      { emu.cpu with p := 0x35, pc := 0x8001 } [] = true := by decide

theorem test_cli_M3 :
    lands (instr (emu.code [0x58]))
      { emu.cpu with p := 0x30, pc := 0x8001 } [] = true := by decide

theorem test_sei_M4 :
    lands (instr ((emu.having { emu.cpu with p := 0x30 }).code [0x78]))
      { emu.cpu with p := 0x34, pc := 0x8001 } [] = true := by decide

theorem test_cld_M6 :
    lands (instr ((emu.having { emu.cpu with p := 0x3C }).code [0xD8]))
      { emu.cpu with p := 0x34, pc := 0x8001 } [] = true := by decide

theorem test_clv_M7 :
    lands (instr ((emu.having { emu.cpu with p := 0x74 }).code [0xB8]))
      { emu.cpu with p := 0x34, pc := 0x8001 } [] = true := by decide

theorem test_xce_M8 :
    lands (instr ((emu.having { emu.cpu with p := 0x34 }).code [0xFB]))
      { emu.cpu with p := 0x35, e := false, pc := 0x8001 } [] = true := by decide

theorem test_xce_M9 :
    lands (instr ((nat16.having { nat16.cpu with p := 0x05, s := 0x1FF0, x := 0x1234 }).code [0xFB]))
      { nat16.cpu with p := 0x04, s := 0x01F0, x := 0x1234, e := true, pc := 0x8001 } [] = true := by decide

theorem test_rep_M12 :
    lands (instr (nat8.code [0xC2, 0x30]))
      { nat8.cpu with p := 0x04, pc := 0x8002 } [] = true := by decide

theorem test_sep_M13 :
    lands (instr (nat16.code [0xE2, 0x20]))
      { nat16.cpu with p := 0x24, pc := 0x8002 } [] = true := by decide

theorem test_rep_M15 :
    traps (instr (emu.code [0xC2, 0x00]))
      (.privilegedFlagInEmulation 0xC2 0x00) = true := by decide

theorem test_sep_M16 :
    traps (instr (emu.code [0xE2, 0x01]))
      (.privilegedFlagInEmulation 0xE2 0x01) = true := by decide

theorem test_nop_M17 :
    lands (instr (emu.code [0xEA]))
      { emu.cpu with pc := 0x8001, p := 0x34 } [] = true := by decide

theorem test_rti_M18 :
    lands (instr (((nat16.having { nat16.cpu with s := 0x01FB }).code [0x40]).holding
        0x00 0x01FC [0x34, 0x10, 0x80, 0x01]))
      { nat16.cpu with s := 0x01FF, pbr := 0x01, p := 0x34, pc := 0x8010 } [] = true := by decide

theorem test_rti_M19 :
    lands (instr (((emu.having { emu.cpu with s := 0x01FC, pbr := 0x05 }).code [0x40]).holding
        0x00 0x01FD [0xB5, 0x10, 0x80]))
      { emu.cpu with s := 0x01FF, pbr := 0x05, p := 0xB5, pc := 0x8010 } [] = true := by decide

/-! ### Illegal opcodes: spec/96_test_vectors_cpu, vectors F -/

theorem test_illegal_F2 :
    traps (instr ((nat16.having { nat16.cpu with pbr := 0x7E, pc := 0x1000 }).code [0x42, 0x00]))
      (.illegalOpcode 0x42 0x7E 0x1000) = true := by decide

/-! ### The picture processor: spec/95_test_vectors section 2.3, 49 R395 -/

/-- A sprite on no line of the tests. -/
def offscreen : OamEntry :=
  { tile := 0, x := 0, y := 200, prio := 0, palette := 0, hflip := false, vflip := false, size := false,
    name := false }

/-- The reset state with this picture state, from one whose sprites are all offscreen. -/
def pictured (f : Picture → Picture) : State :=
  { State.reset with pic := f { Picture.zero with oam := Vector.replicate 128 offscreen } }

/-- Bytes of VRAM. -/
def vramAt (p : Picture) (a : Nat) (bs : List Byte) : Picture :=
  { p with vram := bs.zipIdx.foldl (fun m x => bytesWrite m (a + x.2) x.1) p.vram }

/-- Forty sprites on line 10, from entry `first` on (V1, V2, V4). -/
def forty (first : Nat) (size : Bool) : State :=
  pictured fun p =>
    { p with
      oam := Vector.ofFn fun (i : Fin 128) =>
        if (i.val + 128 - first) % 128 < 40 then
          { offscreen with y := 10, size := size, x := BitVec.ofNat 9 (4 * ((i.val + 128 - first) % 128)) }
        else offscreen
      obj := { p.obj with oamFirst := BitVec.ofNat 7 first } }

theorem test_sprite_cap_V1 :
    let s := rebuild 10 (forty 0 false)
    s.dots.tiles.length = 32 ∧ s.dots.rangeOver = true ∧ s.dots.timeOver = false ∧
      s.dots.tiles.head?.map Tile.sx = some 124 ∧ s.dots.tiles.getLast?.map Tile.sx = some 0 := by decide +kernel

theorem test_scan_start_V2 :
    (forty 120 false).selected 10 = (List.range 32).map (fun k => Fin.ofNat 128 (120 + k)) ∧
      (forty 120 false).selectOverflow 10 = true := by decide +kernel

theorem test_tile_cap_V4 :
    let s := rebuild 10 (forty 0 true)
    s.dots.tiles.length = 34 ∧ s.dots.rangeOver = true ∧ s.dots.timeOver = true ∧
      (s.dots.tiles.map Tile.sx).take 2 = [124, 132] := by decide +kernel

/-- V5: one sprite in detail. -/
def sprite5 : State :=
  pictured fun p =>
    { p with
      oam := p.oam.set 5
        { offscreen with tile := 0xFE, x := BitVec.ofInt 9 (-20), y := 250, size := true, name := true, prio := 2,
                         palette := 5 }
      obj := { sizeSel := 3, nameBase := 1, nameSelect := 2, oamFirst := 0 } }

theorem test_sprite_tiles_V5 :
    (rebuild 3 sprite5).dots.tiles =
      [⟨0xA1C0, -20, 1, 2, 5⟩, ⟨0xA1E0, -12, 1, 2, 5⟩, ⟨0xA000, -4, 1, 2, 5⟩, ⟨0xA020, 4, 1, 2, 5⟩] := by
  decide +kernel

theorem test_tilemap_words_V6 :
    tilemapEntry 0xA007 = ⟨true, false, true, 0, 7⟩ ∧ tilemapEntry 0xA407 = ⟨true, false, true, 1, 7⟩ ∧
      tilemapEntry 0x4000 = ⟨false, true, false, 0, 0⟩ ∧ tilemapEntry 0x1C00 = ⟨false, false, false, 7, 0⟩ := by
  decide

theorem test_bitplanes_V7 :
    (List.range 8).map ((pictured (vramAt · 0x100 [0xA0, 0xC0])).decodePixel 0x100 2 0) = [3, 2, 1, 0, 0, 0, 0, 0] ∧
      (List.range 8).map ((pictured fun p =>
          vramAt (vramAt p 0x206 [0xFF, 0x0F]) 0x216 [0x33, 0x55]).decodePixel 0x200 4 3)
        = [1, 9, 5, 13, 3, 11, 7, 15] := by decide +kernel

/-- V8: the picture of the priority mixer. -/
def picture8 : State :=
  pictured fun p =>
    let p := vramAt (vramAt p 0x800 [0x07, 0x24, 0x08, 0x00]) 0x70 [0x80, 0x80]
    let p := vramAt (vramAt (vramAt p 0x80 [0xF0]) 0x4020 [0x88]) 0x4030 [0x88, 0x88]
    let other : BgLayer :=
      { hofs := 0, vofs := 0, mapBase := 0x800, mapHmirror := true, mapVmirror := true, chrBase := 0 }
    { p with
      layers := (Vector.replicate 4 other).set 0 { other with mapBase := 0x400 }
      oam := (p.oam.set 0 { offscreen with x := 2, y := 0, tile := 1, prio := 3, palette := 2 }).set 1
        { offscreen with x := 8, y := 0, tile := 1 }
      obj := { p.obj with nameBase := 1 }
      cgram := ((((p.cgram.set 0 0x7C00).set 1 0x001F).set 7 0x03E0).set 141 0x0010).set 173 0x7FFF }

/-- The channels of a pixel. -/
def channels (x line : Nat) (s : State) : Option (Nat × Nat × Nat) :=
  match pixel x line s with
  | .error _ => none
  | .ok r => some (r.1.r.toNat, r.1.g.toNat, r.1.b.toNat)

theorem test_mixer_V8 :
    [0, 1, 2, 3, 6, 8, 12, 13].map (channels · 0 picture8) =
      [(0, 248, 0), (0, 0, 248), (248, 248, 248), (0, 0, 248), (248, 248, 248), (248, 0, 0), (128, 0, 0),
        (0, 0, 248)].map some := by decide +kernel

/-- Layer 1 at 0x0400 with these mirror bits (V11). -/
def unmirrored (h v : Bool) : State :=
  pictured fun p =>
    { p with
      layers := p.layers.set 0
        { hofs := 0, vofs := 0, mapBase := 0x400, mapHmirror := h, mapVmirror := v, chrBase := 0 } }

theorem test_map_addresses_V11 :
    [(unmirrored true true).mapAddress 0 33 2, (unmirrored false true).mapAddress 0 33 2,
      (unmirrored true false).mapAddress 0 33 34, (unmirrored false false).mapAddress 0 33 34,
      (unmirrored false false).mapAddress 0 31 31, (unmirrored false false).mapAddress 0 64 64]
      = [0x0441, 0x0841, 0x0841, 0x1041, 0x07FF, 0x0400] := by decide +kernel

/-- V12: scroll and flips. -/
def scrolled : State :=
  pictured fun p =>
    { vramAt (vramAt p 0x800 [0x05, 0xC0]) 0x20A0 [0x02] with
      bgMode := 1
      layers := p.layers.set 0
        { hofs := 1020, vofs := 7, mapBase := 0x400, mapHmirror := true, mapVmirror := true, chrBase := 0x1000 } }

theorem test_scroll_V12 :
    scrolled.bgCandidate bgMode1 0 false 5 0 = some 1 ∧ scrolled.bgCandidate bgMode1 0 true 5 0 = none := by
  decide +kernel

/-- V13: two sprites on one place, with these tiles. -/
def stacked (l : SpriteLookup) (t0 t1 : Byte) : State :=
  let s := pictured fun p =>
    { vramAt p 0x40 [0x80] with
      oam := (p.oam.set 0 { offscreen with y := 0, prio := 1, tile := t0 }).set 1
        { offscreen with y := 0, prio := 1, tile := t1, palette := 1 } }
  rebuild 0 { s with cfg := { s.cfg with spriteLookup := l } }

theorem test_sprite_order_V13 :
    (stacked .firstCovering 0 2).spriteCandidate 0 1 = some 145 ∧
      (stacked .firstCovering 2 0).spriteCandidate 0 1 = none ∧
      (stacked .firstOpaque 2 0).spriteCandidate 0 1 = some 129 := by decide +kernel

theorem test_colours_V10 :
    rgb 0x7FFF = ⟨248, 248, 248⟩ ∧ rgb 0x0010 = ⟨128, 0, 0⟩ ∧ rgb 0x0200 = ⟨0, 128, 0⟩ ∧ rgb 0x4000 = ⟨0, 0, 128⟩ := by
  decide

/-! ### The scheduler and the interrupt: spec/95_test_vectors sections 2.1, 2.2, 48 R345 -/

/-- The state with the two vectors of section 2.1. -/
def vectored (s : State) : State := (s.holding 0x00 0xFFEA [0x00, 0x90]).holding 0x00 0xFFFA [0x00, 0xA0]

theorem test_interrupt_native_I1 :
    lands (finish (cpuInterrupt (vectored (nat16.having { nat16.cpu with pbr := 0x12, pc := 0x3456, p := 0x09 }))))
      { nat16.cpu with s := 0x01FB, pbr := 0x00, pc := 0x9000, p := 0x05 }
      [(0x00, 0x01FF, 0x12), (0x00, 0x01FE, 0x34), (0x00, 0x01FD, 0x56), (0x00, 0x01FC, 0x09)] = true := by decide

theorem test_interrupt_emulation_I3 :
    lands (finish (cpuInterrupt (vectored (emu.having { emu.cpu with pc := 0x8004, s := 0x0101, p := 0x30 }))))
      { emu.cpu with s := 0x01FE, pc := 0xA000, p := 0x34 }
      [(0x00, 0x0101, 0x80), (0x00, 0x0100, 0x04), (0x00, 0x01FF, 0x30)] = true := by decide

/-- Time after an outcome: `master`, the picture debt, the dot. -/
def clocks (o : Host.Outcome State Fault Refusal) (m : Nat) (d : Int) (h v : Nat) : Bool :=
  match o with
  | .next t => decide (t.sched.master = m ∧ t.sched.ppuDebt = d ∧ t.dots.h = h ∧ t.dots.v = v)
  | _ => false

theorem test_clock_R345a : clocks (step (emu.holding 0x00 0x8000 [0x18])) 12 0 3 0 = true := by decide

/-- One dot before vertical blank, CLC at 00:8000, a handler at 00:9000 (R345 c). -/
def atBlank (nmi : Bool) : State :=
  let s := (emu.holding 0x00 0x8000 [0x18]).holding 0x00 0xFFFA [0x00, 0x90]
  { s with dots := { s.dots with h := 340, v := 224 }, sched := { s.sched with nmiEnable := nmi } }

theorem test_delivery_H4 :
    clocks (step (atBlank true)) 12 8 0 225 = true ∧
      lands (step (atBlank true)) { emu.cpu with s := 0x01FC, pc := 0x9000 }
        [(0x00, 0x01FF, 0x80), (0x00, 0x01FE, 0x01), (0x00, 0x01FD, 0x34)] = true := by decide

theorem test_no_delivery_R345d :
    clocks (step (atBlank false)) 12 0 2 225 = true ∧
      lands (step (atBlank false)) { emu.cpu with pc := 0x8001 } [] = true := by decide

/-- 95 E6: the reset vector. -/
theorem test_reset_vector_E6 :
    (match construct { cfg := defaultConfig, mem := [(0xFFFD, 0x80)], pic := Picture.zero } with
      | .ok s => decide (s.cpu = emu.cpu)
      | .error _ => false) = true := by decide

/-- What the host asks: the table word of LDA long runs as the first instruction after reset. -/
theorem test_fetch_word :
    decodeTableWord 32 0x7E1234AF = some (.ldaLong 0x7E 0x1234) ∧
      lands (step (State.reset.withFetchWord 32 0x7E1234AF)) { State.reset.cpu with pc := 0x0004, p := 0x36 } []
        = true := by decide

/-! ### Witnesses: for each statement with hypotheses, states and operands that meet them -/

theorem ram_of_default {s : State} (h : s.cfg = defaultConfig) (b : Byte) (o : Word) : s.Ram b o := by
  have hs : mapAddr defaultBus b o < 0x1000000 := by
    simp only [mapAddr, defaultBus, addr24]; split <;> omega
  have hw : s.window b o = some
      { base := 0, size := 0x1000000, backing := 0, kind := .memory, readable := true, writable := true } := by
    simp only [defaultBus] at hs
    simp [State.window, windowAt, h, defaultConfig, defaultBus, hs]
  exact ⟨⟨_, hw, rfl, rfl⟩, ⟨_, hw, rfl, rfl⟩⟩

theorem loads_byte {s : State} (h : s.cfg = defaultConfig) (a : Word) :
    LoadsByte (.abs a) s (s.byteAt s.cpu.dbr a) s :=
  .inr ⟨_, _, _, ⟨rfl, rfl, rfl⟩, busLoad_plain (ram_of_default h _ _).1⟩

theorem loads_word {s : State} (h : s.cfg = defaultConfig) {a : Word} (ha : a ≠ 0xFFFF) :
    ∃ v, LoadsWord (.abs a) s v s :=
  ⟨word (s.byteAt s.cpu.dbr (a + 1)) (s.byteAt s.cpu.dbr a),
    .inr ⟨_, _, _, _, _, _, ⟨rfl, rfl, rfl⟩, ha, busLoad_plain (ram_of_default h _ _).1,
      busLoad_plain (ram_of_default h _ _).1, word_toNat _ _⟩⟩

theorem puts_word {s : State} (h : s.cfg = defaultConfig) (b : Byte) (o v : Word) : ∃ t, PutsWord b o v s t :=
  ⟨_, _, busStore_plain (ram_of_default h _ _).2 _,
    busStore_plain (ram_of_default (s := s.storeByte b o (v.setWidth 8)) h _ _).2 _⟩

theorem stores_byte {s : State} (h : s.cfg = defaultConfig) (a : Word) (v : Byte) :
    ∃ t, StoresByte (.abs a) v s t :=
  ⟨_, _, _, _, ⟨rfl, rfl, rfl⟩, busStore_plain (ram_of_default h _ _).2 _⟩

theorem stores_word {s : State} (h : s.cfg = defaultConfig) {a : Word} (ha : a ≠ 0xFFFF) (v : Word) :
    ∃ t, StoresWord (.abs a) v s t := by
  obtain ⟨t, ht⟩ := puts_word h s.cpu.dbr a v
  exact ⟨t, _, _, _, ⟨rfl, rfl, rfl⟩, ha, ht⟩

theorem modifies_byte {s : State} (h : s.cfg = defaultConfig) (a : Word) (r : Byte) :
    ∃ t, ModifiesByte (.abs a) s (s.byteAt s.cpu.dbr a) r s t :=
  ⟨_, _, _, _, ⟨rfl, rfl, rfl⟩, busLoad_plain (ram_of_default h _ _).1, busStore_plain (ram_of_default h _ _).2 _⟩

theorem modifies_word {s : State} (h : s.cfg = defaultConfig) {a : Word} (ha : a ≠ 0xFFFF) (r : Word) :
    ∃ t, ModifiesWord (.abs a) s (word (s.byteAt s.cpu.dbr (a + 1)) (s.byteAt s.cpu.dbr a)) r s t := by
  obtain ⟨t, ht⟩ := puts_word h s.cpu.dbr a r
  exact ⟨t, _, _, _, _, _, _, ⟨rfl, rfl, rfl⟩, ha, busLoad_plain (ram_of_default h _ _).1,
    busLoad_plain (ram_of_default h _ _).1, word_toNat _ _, ht⟩

theorem pushes_byte {s : State} (h : s.cfg = defaultConfig) (v : Byte) :
    ∃ t, PushesByte v s t ∧ t.cfg = defaultConfig :=
  ⟨_, ⟨_, _, busStore_plain (ram_of_default h _ _).2 v, spBelow_iff.mpr rfl, rfl⟩, h⟩

theorem pushes_word {s : State} (h : s.cfg = defaultConfig) (v : Word) :
    ∃ t, PushesWord v s t ∧ t.cfg = defaultConfig := by
  obtain ⟨u, hu, hc⟩ := pushes_byte h ((v >>> 8).setWidth 8)
  obtain ⟨t, ht, hd⟩ := pushes_byte hc (v.setWidth 8)
  exact ⟨t, ⟨u, hu, ht⟩, hd⟩

theorem pops_byte {s : State} (h : s.cfg = defaultConfig) : ∃ v t, PopsByte v s t ∧ t.cfg = defaultConfig :=
  ⟨_, _, ⟨_, spAbove_iff.mpr rfl, busLoad_plain (ram_of_default (s := s.setS _) h _ _).1⟩, h⟩

theorem pops_word {s : State} (h : s.cfg = defaultConfig) : ∃ v t, PopsWord v s t ∧ t.cfg = defaultConfig := by
  obtain ⟨l, u, hu, hc⟩ := pops_byte h
  obtain ⟨x, t, ht, hd⟩ := pops_byte hc
  exact ⟨word x l, t, ⟨l, x, u, hu, ht, word_toNat x l⟩, hd⟩

/-- What a passing Bool test says of an outcome. -/
theorem next_of_test {o : Host.Outcome State Fault Refusal} {f : State → Bool}
    (h : (match o with | .next t => f t | _ => false) = true) : ∃ t, o = .next t ∧ f t = true := by
  split at h
  · exact ⟨_, rfl, h⟩
  · cases h

theorem fault_of_traps {o : Host.Outcome State Fault Refusal} {f : Fault} (h : traps o f = true) : o = .fault f := by
  unfold traps at h
  split at h
  · rw [of_decide_eq_true h]
  · cases h

theorem ok_of_test {α : Type} {r : Except Fault α} {f : α → Bool}
    (h : (match r with | .ok t => f t | _ => false) = true) : ∃ t, r = .ok t ∧ f t = true := by
  split at h
  · exact ⟨_, rfl, h⟩
  · cases h

theorem error_of_test {α : Type} {r : Except Fault α} {f : Fault}
    (h : (match r with | .error g => decide (g = f) | _ => false) = true) : r = .error f := by
  split at h
  · rw [of_decide_eq_true h]
  · cases h

/-! #### Encoding and the step -/

theorem witness_DecodeReadsBackEncode :
    (Instr.ldaImm (.imm8 0xFF)).wf true false = true ∧ (Instr.ldaImm (.imm16 0xFFFF)).wf false true = true ∧
      (Instr.ldxImm (.imm8 0x00)).wf false true = true ∧ (Instr.sep 0xFF).wf true true = true := by decide

theorem witness_EncodeReadsBackDecode :
    decode false true [0xA9, 0xFF, 0xFF, 0x00] = .ok (.ldaImm (.imm16 0xFFFF), [0x00]) := rfl

theorem ready_default {s : State} (h1 : s.halt = none) (h2 : s.cfg = defaultConfig) (h3 : s.sched = Sched.reset) :
    s.Ready := ⟨h1, by rw [h2]; decide, by rw [h3]; rfl, by rw [h3]; rfl⟩

theorem witness_IllegalOpcodesTrap :
    let s := emu.holding 0x00 0x8000 [0x42]
    s.Ready ∧ s.cfg.opTable = defaultOpTable ∧ 0x42 ∈ illegalOpcodes ∧ 0x01 ∈ illegalOpcodes ∧
      ∃ t, busLoad s.cpu.pbr s.cpu.pc s.clearDma = .ok (0x42, t) :=
  ⟨ready_default rfl rfl rfl, rfl, by decide, by decide, _, busLoad_plain (ram_of_default rfl _ _).1⟩

theorem witness_LengthByFormat :
    (Instr.cpyImm (.imm16 0x0000)).wf true false = true ∧ (opForm 0xFF).isSome = true ∧
      (opForm 0x04).isSome = true := by decide

/-- The machine whose `OPTABLE` recognises byte `op` as the row of byte `row`, and no longer that byte itself. -/
def retabled (op row : Byte) : State :=
  { emu with cfg := { emu.cfg with opTable := (defaultOpTable.set op.toNat (some row)).set row.toNat none } }

theorem witness_StepRunsTheDecodedInstruction :
    let s := emu.holding 0x00 0x8000 [0xBF, 0xFF, 0xFF, 0x7E]
    s.Ready ∧ (Instr.ldaLongx 0x7E 0xFFFF).wf s.m8 s.x8 = true ∧ s.cfg.opTable.get (0xBF : Byte).toFin = some 0xBF ∧
      (∃ u, fetchBytes 4 s.clearDma = .ok (0xBF :: (encode (.ldaLongx 0x7E 0xFFFF)).tail, u)) ∧
      (∀ (k : Nat) (v : Byte), (0xBF :: (encode (.ldaLongx 0x7E 0xFFFF)).tail)[k]? = some v →
        s.PlainRead s.cpu.pbr (s.cpu.pc + BitVec.ofNat 16 k) ∧
        s.byteAt s.cpu.pbr (s.cpu.pc + BitVec.ofNat 16 k) = v) ∧
      (retabled 0x42 0x18).cfg.opTable.get (0x42 : Byte).toFin = some Instr.clc.opcode ∧
      (retabled 0x42 0x18).Ready ∧ ((retabled 0x42 0x18).cfg.opTable.get (0x18 : Byte).toFin).bind opForm = none ∧
      ∃ t, busLoad 0x00 0x8000 ((retabled 0x42 0x18).holding 0x00 0x8000 [0x18]).clearDma = .ok (0x18, t) := by
  refine ⟨ready_default rfl rfl rfl, rfl, by decide, ⟨_, fetchBytes_plain 4
    (emu.holding 0x00 0x8000 [0xBF, 0xFF, 0xFF, 0x7E]).clearDma fun k _ => (ram_of_default rfl _ _).1⟩,
    fun k v h => ⟨(ram_of_default (s := emu.holding 0x00 0x8000 [0xBF, 0xFF, 0xFF, 0x7E]) rfl _ _).1, ?_⟩, by decide,
    ⟨rfl, rfl, rfl, rfl⟩, by decide, _, rfl⟩
  match k, h with
    | 0, h => exact Option.some.inj h
    | 1, h => exact Option.some.inj h
    | 2, h => exact Option.some.inj h
    | 3, h => exact Option.some.inj h

/-- A byte the table recognises as CLC runs CLC and costs what its own cell of CYCLES says: 3 for 0x42, not 2 (30 R100,
47 R300 step 6, log 16). -/
theorem test_other_opTable :
    let s := retabled 0x42 0x18
    let s := { s with cfg := { s.cfg with cycles := s.cfg.cycles.set 0x42 3 } }
    clocks (step ((s.setP 0x35).holding 0x00 0x8000 [0x42])) 18 (-2) 5 0 = true ∧
      lands (step ((s.setP 0x35).holding 0x00 0x8000 [0x42])) { emu.cpu with pc := 0x8001 } [] = true := by decide

/-- A step that delivers no interrupt. -/
def quiet : State := emu.holding 0x00 0x8000 [0x18]

theorem quiet_steps : ∃ t, step quiet = .next t := by
  obtain ⟨t, h, -⟩ := next_of_test (o := step quiet) (f := fun _ => true) (by decide)
  exact ⟨t, h⟩

theorem witness_StepAccountsForTime :
    (∃ t, step quiet = .next t) ∧ -(quiet.cfg.dotMasterCycles : Int) < quiet.sched.ppuDebt :=
  ⟨quiet_steps, by decide⟩

theorem witness_AudioDrainStepsWhileAboveTheDivisor :
    let at_ (d : Int) : State := { emu with sched := { emu.sched with apuDebt := d } }
    (at_ 21).sched.apuDebt ≤ (at_ 21).cfg.apuDivisor ∧ (at_ 22).sched.apuDebt > (at_ 22).cfg.apuDivisor ∧
      0 < (at_ 22).cfg.apuDivisor := by decide

/-- A state one dot before vertical blank, with a picture debt. -/
def beforeBlank (nmi : Bool) : State :=
  { emu with
    sched := { emu.sched with ppuDebt := 1, nmiEnable := nmi }
    dots := { emu.dots with h := 340, v := 224 } }

theorem witness_PictureDrainDeliversTheInterrupt :
    emu.sched.ppuDebt ≤ 0 ∧
      (∀ nmi, (beforeBlank nmi).sched.ppuDebt > 0 ∧ 0 < (beforeBlank nmi).cfg.dotMasterCycles ∧
        ∃ ev u, ppuAdvance (beforeBlank nmi) = .ok (ev, u) ∧ u.dots.h = 0 ∧
          u.dots.v = (beforeBlank nmi).cfg.geometry.vblankLine) ∧
      (∃ ev u, ppuAdvance { emu with sched := { emu.sched with ppuDebt := 1 } } = .ok (ev, u) ∧
        ¬ (u.dots.h = 0 ∧ u.dots.v = emu.cfg.geometry.vblankLine)) ∧
      ∃ f, ppuAdvance { emu with
        sched := { emu.sched with ppuDebt := 1 }, pic := { emu.pic with bgMode := 2 } } = .error f := by
  refine ⟨by decide, fun nmi => ⟨by cases nmi <;> decide, by cases nmi <;> decide, ?_⟩, ?_, ⟨_, rfl⟩⟩
  · exact ⟨_, _, rfl, rfl, rfl⟩
  · exact ⟨_, _, rfl, by decide⟩

theorem witness_UnsupportedFeaturesTrap :
    let hdma : State := { emu with sched := { emu.sched with hdmaEnable := true } }
    let counter : State := { emu with sched := { emu.sched with hvIrqEnable := true } }
    hdma.halt = none ∧ configOk hdma.cfg = true ∧ hdma.sched.hdmaEnable = true ∧
      counter.halt = none ∧ configOk counter.cfg = true ∧ counter.sched.hdmaEnable = false ∧
      counter.sched.hvIrqEnable = true := by decide

theorem witness_RunsEndByTrapOrBudget :
    (emu.halted .unsupportedHdma).halt = some .unsupportedHdma ∧
      step emu = .fault (.illegalOpcode 0x00 0x00 0x8000) ∧
      ∃ t, step quiet = .next t ∧ 12 ≤ t.sched.master ∧ t.sched.master < 13 := by
  refine ⟨rfl, fault_of_traps (by decide), ?_⟩
  obtain ⟨t, h, ht⟩ := next_of_test (o := step quiet)
    (f := fun t => decide (12 ≤ t.sched.master ∧ t.sched.master < 13)) (by decide)
  exact ⟨t, h, of_decide_eq_true ht⟩

theorem quiet_inv : quiet.Inv :=
  ⟨by decide, fun _ => by decide, fun _ => by decide, by decide, by decide, by decide, by decide, by decide,
    by decide⟩

theorem witness_EveryStepKeepsInv : quiet.Inv ∧ ∃ t, step quiet = .next t := ⟨quiet_inv, quiet_steps⟩

theorem no_devices_of_default {s : State} (h : s.cfg = defaultConfig) : s.NoDevices := by
  rw [State.NoDevices, h]; decide

theorem witness_StepsKeepParametersAndPicture : (∃ t, step quiet = .next t) ∧ quiet.NoDevices :=
  ⟨quiet_steps, no_devices_of_default rfl⟩

/-! #### Reset and the bus -/

/-- A launch with the reset vector of 95 E6, and one whose bus answers nothing. -/
def launch : Launch := { cfg := defaultConfig, mem := [(0xFFFD, 0x80)], pic := Picture.zero }

/-- A window over the bytes behind the bus that its bus addresses number. -/
def span (base size : Nat) (kind : WindowKind) (readable writable : Bool) : Window :=
  { base := base, size := size, backing := base, kind := kind, readable := readable, writable := writable }

/-- The machine with these windows on its bus, working RAM at bank 0. -/
def withBus (ws : List Window) : State :=
  { emu with cfg := { emu.cfg with bus := { mirror := some 0, windows := ws } } }

theorem witness_ConstructionReadsTheResetVector :
    (∃ s t, busLoad 0x00 0xFFFC launch.state = .ok (0x00, s) ∧ busLoad 0x00 0xFFFD s = .ok (0x80, t)) ∧
      launch.state.PlainRead 0x00 0xFFFC ∧ launch.state.PlainRead 0x00 0xFFFD ∧
      (∃ f, busLoad 0x00 0xFFFC { launch with cfg := (withBus []).cfg }.state = .error f) ∧
      ∃ s f, busLoad 0x00 0xFFFC
          { launch with cfg := (withBus [span 0 0xFFFD .memory true true]).cfg }.state = .ok (0x00, s) ∧
        busLoad 0x00 0xFFFD s = .error f :=
  ⟨⟨_, _, rfl, rfl⟩, (ram_of_default rfl _ _).1, (ram_of_default rfl _ _).1, ⟨_, rfl⟩, _, _, rfl, rfl⟩

/-- A bus with a hole, a read-only and a write-only window, a device, the two kinds of register, then RAM. -/
def mixed : State :=
  withBus [span 0x2000 1 .memory true false, span 0x2001 1 .memory false true, span 0x2100 1 .device true true,
    span 0x4200 1 (.enables 0x80 0x30 0) true true, span 0x420B 1 .dmaEnable true true,
    span 0 0xFF0000 .memory true true]

theorem witness_BusAnswersByWindow :
    mixed.window 0xFF 0x0000 = none ∧
      (∃ w, mixed.window 0x00 0x2000 = some w ∧ w.readable = true ∧ w.writable = false ∧ w.kind = .memory) ∧
      (∃ w, mixed.window 0x00 0x2001 = some w ∧ w.readable = false ∧ w.writable = true ∧ w.kind = .memory) ∧
      (∃ w, mixed.window 0x00 0x420B = some w ∧ w.readable = true ∧ w.kind = .dmaEnable) ∧
      ∃ w, mixed.window 0x00 0x2100 = some w ∧ w.readable = true ∧ w.writable = true ∧ w.kind = .device :=
  ⟨rfl, ⟨_, rfl, rfl, rfl, rfl⟩, ⟨_, rfl, rfl, rfl, rfl⟩, ⟨_, rfl, rfl, rfl⟩, _, rfl, rfl, rfl, rfl⟩

theorem witness_RamReturnsWhatWasStored :
    Memory.wf emu.mem ∧ emu.Ram 0x7E 0x1FFF ∧ emu.Ram 0x7E 0x2000 ∧ emu.Apart 0x7E 0x1FFF 0x7E 0x2000 ∧
      emu.Apart 0x00 0x0000 0x7E 0x1FFF :=
  ⟨by decide, ram_of_default rfl _ _, ram_of_default rfl _ _, by unfold State.Apart; decide,
    by unfold State.Apart; decide⟩

/-- Working RAM at 7E:0000, mirrored from there (20 R64), and a second window over the first of its bytes. -/
def ram7E : State :=
  { emu with cfg := { emu.cfg with bus :=
      { mirror := some 0x7E0000
        windows := [{ base := 0xFE0000, size := 1, backing := 0x7E0000, kind := .memory, readable := true,
                      writable := false }, span 0 0x1000000 .memory true true] } } }

theorem witness_FirstEightKilobytesAreMirrored :
    emu.cfg.bus.mirror = some 0 ∧ ram7E.cfg.bus.mirror = some ((0x7E : Byte).toNat * 65536) ∧
      (0x1FFF : Word).toNat < 0x2000 ∧ (0x3F : Byte).toNat ≤ 0x3F ∧
      (0x80 ≤ (0xBF : Byte).toNat ∧ (0xBF : Byte).toNat ≤ 0xBF) ∧
      (0x40 ≤ (0x7E : Byte).toNat ∧ (0x7E : Byte).toNat ≤ 0x7F) ∧
      (∀ w ∈ emu.cfg.bus.windows, w.backing = w.base) ∧ 0x2000 ≤ (0x2000 : Word).toNat := by decide

/-- A byte stored at 7E:0000 is read at 00:0000, at BF:0000 and through the window laid over it, not at 00:2000 or
40:0000 (20 R62, R64). -/
theorem test_working_ram_elsewhere :
    (match busStore 0x7E 0x0000 0xA5 ram7E with
      | .ok t => decide (t.byteAt 0x00 0x0000 = 0xA5 ∧ t.byteAt 0xBF 0x0000 = 0xA5 ∧ t.byteAt 0xFE 0x0000 = 0xA5 ∧
          t.byteAt 0x00 0x2000 = 0x00 ∧ t.byteAt 0x40 0x0000 = 0x00)
      | .error _ => false) = true := by decide

/-- On a bus where every address reads and writes and is no device, a DMA run completes whatever it does. -/
theorem dma_completes {s : State}
    (h : ∀ b o, ∃ w, s.window b o = some w ∧ w.readable = true ∧ w.writable = true ∧ w.kind ≠ .device)
    (xs : List DmaAccess) : ∃ u, dmaAccesses xs s = .ok u := by
  induction xs generalizing s with
  | nil => exact ⟨s, rfl⟩
  | cons x xs ih =>
    have hx : ∃ t, dmaAccess x s = .ok t := by
      cases x with
      | load b o =>
        obtain ⟨w, hw, hr, -, hk⟩ := h b o
        have : ∃ v t, busLoad b o s = .ok (v, t) := by
          simp only [busLoad, hw, hr, if_true]
          cases hc : w.kind <;> first | exact ⟨_, _, rfl⟩ | exact absurd hc hk
        obtain ⟨v, t, hv⟩ := this
        exact ⟨t, by simp only [dmaAccess, hv, readThen_ok]⟩
      | store b o v =>
        obtain ⟨w, hw, -, hr, hk⟩ := h b o
        simp only [dmaAccess, busStorePlain, hw, hr, if_true]
        cases hc : w.kind <;> first | exact ⟨_, rfl⟩ | exact absurd hc hk
      | device w => exact ⟨_, rfl⟩
    obtain ⟨t, ht⟩ := hx
    have hc := (dmaAccess_touched ht).clock.cfg
    obtain ⟨u, hu⟩ := ih (s := t) fun b o => by rw [State.window_congr hc]; exact h b o
    exact ⟨u, by rw [dmaAccesses, ht, writeThen_ok, hu]⟩

/-- A bus of RAM but for the DMA-enable register and an enable register at their usual places. -/
def console : State :=
  withBus [span 0x4200 1 (.enables 0x80 0x30 0) true true, span 0x420B 1 .dmaEnable true true,
    span 0 0x1000000 .memory true true]

theorem console_window (b : Byte) (o : Word) :
    ∃ w, console.window b o = some w ∧ w.readable = true ∧ w.writable = true ∧ w.kind ≠ .device := by
  have ha : mapAddr console.cfg.bus b o < 0x1000000 := by
    simp only [mapAddr, console, withBus, addr24]; split <;> omega
  have hl : (span 0 0x1000000 .memory true true).base ≤ mapAddr console.cfg.bus b o ∧
      mapAddr console.cfg.bus b o < (span 0 0x1000000 .memory true true).base
        + (span 0 0x1000000 .memory true true).size := ⟨Nat.zero_le _, by simpa [span] using ha⟩
  have hs : ∃ w, console.window b o = some w := by
    rw [← Option.isSome_iff_exists, State.window, windowAt, List.find?_isSome]
    exact ⟨_, by simp [console, withBus]; exact .inr (.inr rfl), by simpa using hl⟩
  obtain ⟨w, hw⟩ := hs
  have hm := windowAt_mem hw
  have : ∀ w ∈ console.cfg.bus.windows, w.readable = true ∧ w.writable = true ∧ w.kind ≠ .device := by decide
  exact ⟨w, hw, this w hm⟩

theorem witness_ControlRegistersActInsideTheStore :
    (∃ w u, console.window 0x00 0x420B = some w ∧ w.kind = .dmaEnable ∧ w.writable = true ∧
        dmaAccesses (Config.freeDma console 0x01).accesses
          { console with box := { console.box with hidden := (Config.freeDma console 0x01).hidden } } = .ok u) ∧
      ∃ w, console.window 0x00 0x4200 = some w ∧ w.writable = true ∧ w.kind = .enables 0x80 0x30 0 := by
  refine ⟨?_, _, rfl, rfl, rfl⟩
  obtain ⟨u, hu⟩ := dma_completes
    (s := { console with box := { console.box with hidden := (Config.freeDma console 0x01).hidden } })
    (fun b o => console_window b o) (Config.freeDma console 0x01).accesses
  exact ⟨_, u, rfl, rfl, rfl, hu⟩

/-! #### Operands -/

/-- X = 1, Y = 1, and a pointer to FF:FFFF at 00:0010. -/
def indexed : State :=
  (nat16.having { nat16.cpu with x := 1, y := 1 }).holding 0x00 0x0010 [0xFF, 0xFF, 0xFF]

/-- The bytes of the pointer at 00:0010 are the last thing this bus answers, at `n` bytes. -/
def pointerBus (n : Nat) : State := { (withBus [span 0 (0x10 + n) .memory true true]) with mem := indexed.mem }

theorem witness_AddressesOrTraps :
    EffAddr (.absX 0xFFFE) indexed 0x00 0xFFFF indexed ∧ EffAddr (.absLongX 0xFF 0xFFFE) indexed 0xFF 0xFFFF indexed ∧
      (0xFFFF : Word).toNat + indexed.xi.toNat > 0xFFFF ∧
      (0xFF : Byte).toNat * 65536 + (0xFFFF : Word).toNat + indexed.xi.toNat ≥ 0x1000000 ∧
      (0xFFFE : Word).toNat = ((nat16.setD 0xFF00).cpu.d.toNat + (0xFE : Byte).toNat) % 65536 ∧
      (0xFFFE : Word).toNat > 0xFFFD ∧ (0x0010 : Word).toNat = (indexed.cpu.d.toNat + (0x10 : Byte).toNat) % 65536 ∧
      (∃ f, busLoad 0x00 0x0010 (pointerBus 0) = .error f) ∧
      (∃ l s1 f, busLoad 0x00 0x0010 (pointerBus 1) = .ok (l, s1) ∧ busLoad 0x00 (0x0010 + 1) s1 = .error f) ∧
      (∃ l m s1 s2 f, busLoad 0x00 0x0010 (pointerBus 2) = .ok (l, s1) ∧
        busLoad 0x00 (0x0010 + 1) s1 = .ok (m, s2) ∧ busLoad 0x00 (0x0010 + 2) s2 = .error f) ∧
      ∃ s1 s2 s3, busLoad 0x00 0x0010 indexed = .ok (0xFF, s1) ∧ busLoad 0x00 (0x0010 + 1) s1 = .ok (0xFF, s2) ∧
        busLoad 0x00 (0x0010 + 2) s2 = .ok (0xFF, s3) ∧
        (0xFF : Byte).toNat * 65536 + (0xFF : Byte).toNat * 256 + (0xFF : Byte).toNat + indexed.yi.toNat
          ≥ 0x1000000 :=
  ⟨⟨rfl, rfl, rfl⟩, ⟨rfl, rfl⟩, by decide, by decide, by decide, by decide, by decide, ⟨_, rfl⟩, ⟨_, _, _, rfl, rfl⟩,
    ⟨_, _, _, _, _, rfl, rfl, rfl⟩, _, _, _, rfl, rfl, rfl, by decide⟩

theorem witness_AccessorTraps :
    EffAddr (.abs 0xFFFF) emu 0x00 0xFFFF emu ∧
      (∃ f, address (.absX 0xFFFF) indexed = .error f ∧
        ∀ v, Variant.absX 0xFFFF ≠ .imm8 v ∧ ∀ w, Variant.absX 0xFFFF ≠ .imm16 w) ∧
      (∃ f, EffAddr (.abs 0x0010) (pointerBus 0) 0x00 0x0010 (pointerBus 0) ∧
        busLoad 0x00 0x0010 (pointerBus 0) = .error f ∧ busStore 0x00 0x0010 0xFF (pointerBus 0) = .error f) ∧
      (∃ f l t, EffAddr (.abs 0x0010) (pointerBus 1) 0x00 0x0010 (pointerBus 1) ∧ (0x0010 : Word) ≠ 0xFFFF ∧
        busLoad 0x00 0x0010 (pointerBus 1) = .ok (l, t) ∧ busLoad 0x00 (0x0010 + 1) t = .error f) ∧
      (∃ f, busStore 0x00 0x0010 ((0xFFFF : Word).setWidth 8) (pointerBus 0) = .error f) ∧
      ∃ f t, busStore 0x00 0x0010 ((0xFFFF : Word).setWidth 8) (pointerBus 1) = .ok t ∧
        busStore 0x00 (0x0010 + 1) (((0xFFFF : Word) >>> 8).setWidth 8) t = .error f :=
  ⟨⟨rfl, rfl, rfl⟩, ⟨_, rfl, fun _ => ⟨nofun, fun _ => nofun⟩⟩, ⟨_, ⟨rfl, rfl, rfl⟩, rfl, rfl⟩,
    ⟨_, _, _, ⟨rfl, rfl, rfl⟩, by decide, rfl, rfl⟩, ⟨_, rfl⟩, _, _, rfl, rfl⟩

theorem witness_UsageTrapsAreUnreachable : (Instr.bitImm (.imm16 0x8000)).wf nat16.m8 nat16.x8 = true := by decide

theorem witness_OperandTrapsStopTheInstruction :
    (Instr.ldaAbs 0x10).mnemonic.isRead = true ∧ (Instr.ldaAbs 0x10).mnemonic.narrow (pointerBus 0) = true ∧
      loadb (.abs 0x10) (pointerBus 0) = .error (.busUnmapped 0x00 0x0010) ∧
      (Instr.adcAbs 0x10).mnemonic.narrow ((pointerBus 1).having nat16.cpu) = false ∧
      getFlag nat16.cpu.p .d = false ∧
      loadw (.abs 0x10) ((pointerBus 1).having nat16.cpu) = .error (.busUnmapped 0x00 0x0011) ∧
      (Instr.stzAbs 0x10).mnemonic.isStore = true ∧
      storeb (.abs 0x10) 0x00 (pointerBus 0) = .error (.busUnmapped 0x00 0x0010) ∧
      storew (.abs 0x10) 0x0000 ((pointerBus 1).having nat16.cpu) = .error (.busUnmapped 0x00 0x0011) ∧
      (Instr.incAbs 0xFFFF).mnemonic.isModify = true ∧ nat16.m8 = false ∧ EffAddr (.abs 0xFFFF) nat16 0x00 0xFFFF nat16 ∧
      (∃ f, address (.absX 0xFFFF) indexed = .error f) ∧
      (∃ f, EffAddr (.abs 0x10) (pointerBus 0) 0x00 0x0010 (pointerBus 0) ∧
        busLoad 0x00 0x0010 (pointerBus 0) = .error f) ∧
      (∃ f l x, ((pointerBus 1).having nat16.cpu).m8 = false ∧
        busLoad 0x00 0x0010 ((pointerBus 1).having nat16.cpu) = .ok (l, x) ∧
        busLoad 0x00 (0x0010 + 1) x = .error f) ∧
      (∃ v x, busLoad 0x00 0x2000 mixed = .ok (v, x) ∧ ∃ r : Byte, (Mnemonic.TSB).Puts (lo emu.cpu.a) false v r ∧
        busStore 0x00 0x2000 r x = .error (.busAccessViolation 0x00 0x2000 .write)) ∧
      (∃ v x, busLoadWord 0x00 0x0010 (withBus [span 0x10 2 .memory true false]) = .ok (v, x) ∧
        ∃ r : Word, (Mnemonic.TSB).Puts emu.cpu.a false v r ∧
          busStore 0x00 0x0010 (r.setWidth 8) x = .error (.busAccessViolation 0x00 0x0010 .write)) ∧
      ∃ v x, busLoadWord 0x00 0x0010 (withBus [span 0x10 1 .memory true true, span 0x11 1 .memory true false])
          = .ok (v, x) ∧
        ∃ (r : Word) (y : State), (Mnemonic.TSB).Puts emu.cpu.a false v r ∧
          busStore 0x00 0x0010 (r.setWidth 8) x = .ok y ∧
          busStore 0x00 (0x0010 + 1) ((r >>> 8).setWidth 8) y = .error (.busAccessViolation 0x00 0x0011 .write) :=
  ⟨rfl, rfl, rfl, rfl, by decide, rfl, rfl, rfl, rfl, rfl, rfl, ⟨rfl, rfl, rfl⟩, ⟨_, rfl⟩, ⟨_, ⟨rfl, rfl, rfl⟩, rfl⟩,
    ⟨_, _, _, rfl, rfl, rfl⟩, ⟨_, _, rfl, _, rfl, rfl⟩, ⟨_, _, rfl, _, rfl, rfl⟩, _, _, rfl, _, _, rfl, rfl, rfl⟩

/-- Native mode with both widths 16, stack RAM at `lo` for `n` bytes and nowhere else, S at `sp`. -/
def stackBus (lo n : Nat) (sp : Word) : State := ((withBus [span lo n .memory true true]).having nat16.cpu).setS sp

/-- Where the first push or pop traps, and where one that follows does: bytes at 0x0200 and 0x01FF, below or above
them nothing. -/
theorem witness_stack_traps :
    (∃ f, busStore 0x00 0x01FF 0x00 (stackBus 0x0200 1 0x01FF) = .error f ∧
        pushb 0x00 (stackBus 0x0200 1 0x01FF) = .error f ∧ pushw 0x0000 (stackBus 0x0200 1 0x01FF) = .error f) ∧
      (∃ t f, pushb 0x00 (stackBus 0x01FF 1 0x01FF) = .ok t ∧ pushw 0x0000 t = .error f ∧
        busStore 0x00 t.cpu.s 0x00 t = .error f) ∧
      (∃ t f, pushw 0x0000 (stackBus 0x01FE 2 0x01FF) = .ok t ∧ pushb 0x00 t = .error f) ∧
      (∃ f, popb (stackBus 0x01FF 1 0x01FF) = .error f ∧ popw (stackBus 0x01FF 1 0x01FF) = .error f) ∧
      (∃ v t f, popb (stackBus 0x0200 1 0x01FF) = .ok (v, t) ∧ popb t = .error f ∧ popw t = .error f ∧
        popw (t.setP v) = .error f) ∧
      (∃ v t f, popw (stackBus 0x0200 2 0x01FF) = .ok (v, t) ∧ popb t = .error f) ∧
      (∃ p t pc u f, popb (stackBus 0x0200 3 0x01FF) = .ok (p, t) ∧ popw (t.setP p) = .ok (pc, u) ∧
        popb (u.setPc pc) = .error f) ∧
      (stackBus 0x0200 1 0x01FF).cpu.e = false ∧ (stackBus 0x0200 1 0x01FF).m8 = false ∧ emu.m8 = true ∧
      (stackBus 0x0200 1 0x01FF).cfg.callStackOrder = .pbrOnTop ∧
      (deepest (stackBus 0x0200 1 0x01FF)).cfg.callStackOrder = .pbrDeepest ∧
      (0xFFFF : Word).toNat = ((nat16.setPc 0x0000).cpu.pc.toNat + 65535) % 65536 :=
  ⟨⟨_, rfl, rfl, rfl⟩, ⟨_, _, rfl, rfl, rfl⟩, ⟨_, _, rfl, rfl⟩, ⟨_, rfl, rfl⟩, ⟨_, _, _, rfl, rfl, rfl, rfl⟩,
    ⟨_, _, _, rfl, rfl⟩, ⟨_, _, _, _, _, rfl, rfl, rfl⟩, rfl, rfl, rfl, rfl, rfl, by decide⟩

theorem witness_EveryInstructionCompletesOnRam :
    (Instr.adcAbs 0xFFFE).wf nat16.m8 nat16.x8 = true ∧ (∀ b o, nat16.Ram b o) ∧ getFlag nat16.cpu.p .d = false ∧
      nat16.cpu.e = false ∧ EffAddr (.abs 0xFFFE) nat16 0x00 0xFFFE nat16 ∧ (0xFFFE : Word) ≠ 0xFFFF :=
  ⟨rfl, ram_of_default rfl, by decide, rfl, ⟨rfl, rfl, rfl⟩, by decide⟩

/-! #### Instructions: both widths, the last offset a word fits at -/

theorem witness_LoadsRun :
    (Instr.ldaAbs 0xFFFF).variant? = some (.abs 0xFFFF) ∧ emu.narrow .a = true ∧ nat16.narrow .x = false ∧
      (∃ v, LoadsByte (.abs 0xFFFF) emu v emu) ∧ ∃ v, LoadsWord (.abs 0xFFFE) nat16 v nat16 :=
  ⟨rfl, rfl, rfl, ⟨_, loads_byte rfl _⟩, loads_word rfl (by decide)⟩

theorem witness_StoresRun :
    (Instr.stxAbs 0xFFFF).variant? = some (.abs 0xFFFF) ∧ emu.x8 = true ∧ nat16.m8 = false ∧
      (∃ t, StoresByte (.abs 0xFFFF) (emu.cpu.x.setWidth 8) emu t) ∧ ∃ t, StoresWord (.abs 0xFFFE) nat16.cpu.a nat16 t :=
  ⟨rfl, rfl, rfl, stores_byte rfl _ _, stores_word rfl (by decide) _⟩

theorem witness_AdditionsRun :
    getFlag emu.cpu.p .d = false ∧ getFlag nat16.cpu.p .d = false ∧ emu.m8 = true ∧ nat16.m8 = false ∧
      LoadsByte (.imm8 0xFF) emu 0xFF emu ∧
      (0xFF : Byte).toNat
        = ((lo emu.cpu.a).toNat + (0xFF : Byte).toNat + (getFlag emu.cpu.p .c).toNat) % 256 ∧
      LoadsWord (.imm16 0x0000) nat16 0x0000 nat16 ∧
      (0xFFFF : Word).toNat
        = (nat16.cpu.a.toNat + (~~~(0x0000 : Word)).toNat + (getFlag nat16.cpu.p .c).toNat) % 65536 :=
  ⟨by decide, by decide, rfl, rfl, .inl ⟨rfl, rfl⟩, by decide, .inl ⟨rfl, rfl⟩, by decide⟩

theorem witness_DecimalArithmeticTraps :
    (Instr.adcAbs 0x2000).mnemonic = .ADC ∧ (Instr.sbcImm (.imm8 1)).mnemonic = .SBC ∧
      getFlag (emu.setP 0x3C).cpu.p .d = true := by decide

theorem witness_LogicRuns :
    (∃ f, (Instr.andAbs 0xFFFF).mnemonic.logic = some f) ∧ (∃ f, (Instr.oraAbs 0xFFFE).mnemonic.logic = some f) ∧
      (∃ f, (Instr.eorAbs 0xFFFE).mnemonic.logic = some f) ∧ emu.m8 = true ∧ nat16.m8 = false ∧
      (∃ v, LoadsByte (.abs 0xFFFF) emu v emu) ∧ ∃ v, LoadsWord (.abs 0xFFFE) nat16 v nat16 :=
  ⟨⟨_, rfl⟩, ⟨_, rfl⟩, ⟨_, rfl⟩, rfl, rfl, ⟨_, loads_byte rfl _⟩, loads_word rfl (by decide)⟩

theorem witness_ComparesRun :
    (Instr.cpyAbs 0xFFFF).mnemonic = .CPY ∧ emu.narrow .y = true ∧ nat16.narrow .a = false ∧
      (∃ v, LoadsByte (.abs 0xFFFF) emu v emu) ∧ ∃ v, LoadsWord (.abs 0xFFFE) nat16 v nat16 :=
  ⟨rfl, rfl, rfl, ⟨_, loads_byte rfl _⟩, loads_word rfl (by decide)⟩

theorem witness_BitTestsRun :
    (Instr.bitImm (.imm8 0x80)).format = .immM ∧ (Instr.bitAbs 0xFFFF).format ≠ .immM ∧
      LoadsByte (.imm8 0x80) emu 0x80 emu ∧ (∃ v, LoadsByte (.abs 0xFFFF) emu v emu) ∧
      LoadsWord (.imm16 0x8000) nat16 0x8000 nat16 ∧ ∃ v, LoadsWord (.abs 0xFFFE) nat16 v nat16 :=
  ⟨rfl, nofun, .inl ⟨rfl, rfl⟩, ⟨_, loads_byte rfl _⟩, .inl ⟨rfl, rfl⟩, loads_word rfl (by decide)⟩

theorem witness_TestAndSetBitsRun (clear : Bool) :
    (∃ v t, ModifiesByte (.abs 0xFFFF) emu v (if clear then v &&& ~~~(lo emu.cpu.a) else v ||| lo emu.cpu.a) emu t) ∧
      ∃ v t, ModifiesWord (.abs 0xFFFE) nat16 v (if clear then v &&& ~~~nat16.cpu.a else v ||| nat16.cpu.a) nat16 t := by
  obtain ⟨t, ht⟩ := modifies_byte (s := emu) rfl 0xFFFF _
  obtain ⟨u, hu⟩ := modifies_word (s := nat16) rfl (a := 0xFFFE) (by decide) _
  exact ⟨⟨_, t, ht⟩, _, u, hu⟩

theorem witness_MemoryShiftsRun :
    (∃ t, ModifiesByte (.abs 0xFFFF) emu 0x00 0x00 emu t) ∧
      (Instr.aslAbs 0xFFFF).mnemonic.Shifts false (0x00 : Byte) 0x00 (some false) ∧
      (Instr.lsrAbs 0xFFFF).mnemonic.Shifts false (0x00 : Byte) 0x00 (some false) ∧
      (Instr.rolAbs 0xFFFF).mnemonic.Shifts false (0x00 : Byte) 0x00 (some false) ∧
      (∃ t, ModifiesWord (.abs 0xFFFE) nat16 0x0000 0xFFFF nat16 t) ∧
      (Instr.decAbs 0xFFFE).mnemonic.Shifts false (0x0000 : Word) 0xFFFF none ∧
      (∃ t, ModifiesWord (.abs 0xFFFE) nat16 0x0000 0x8000 nat16 t) ∧
      (Instr.rorAbs 0xFFFE).mnemonic.Shifts true (0x0000 : Word) 0x8000 (some false) ∧
      (Instr.incAbs 0xFFFE).mnemonic.Shifts true (0xFFFF : Word) 0x0000 none :=
  ⟨modifies_byte (s := emu) rfl 0xFFFF _, ⟨rfl, rfl⟩, ⟨rfl, rfl⟩, ⟨rfl, rfl⟩,
    modifies_word (s := nat16) rfl (a := 0xFFFE) (by decide) _, ⟨rfl, rfl⟩,
    modifies_word (s := nat16) rfl (a := 0xFFFE) (by decide) _, ⟨rfl, rfl⟩, rfl, rfl⟩

theorem witness_AccumulatorShiftsRun :
    Instr.aslAcc.format = .acc ∧ emu.m8 = true ∧ nat16.m8 = false ∧
      Instr.rorAcc.mnemonic.Shifts true (lo emu.cpu.a) 0x80 (some false) ∧
      Instr.decAcc.mnemonic.Shifts true nat16.cpu.a 0xFFFF none :=
  ⟨rfl, rfl, rfl, ⟨rfl, rfl⟩, rfl, rfl⟩

theorem witness_IndexStepsRun :
    emu.x8 = true ∧ nat16.x8 = false ∧ (0x01 : Byte).toNat = ((lo (emu.reg .x)).toNat + 1) % 256 ∧
      (0xFF : Byte).toNat = ((lo (emu.reg .y)).toNat + 65535) % 256 ∧
      (0xFFFF : Word).toNat = ((nat16.reg .y).toNat + 65535) % 65536 := by decide

theorem witness_TransfersRun :
    emu.narrow .x = true ∧ nat16.narrow .x = false ∧ (nat8.setP 0x14).narrow .a = false ∧
      (nat8.setP 0x14).x8 = true := by decide

theorem witness_SixteenBitTransfersRun :
    emu.cpu.e = true ∧ nat8.cpu.e = false ∧ (0x0100 : Word).toNat = 0x100 + emu.cpu.x.toNat % 256 ∧
      (0x0000 : Word).toNat = emu.cpu.a.toNat % 256 * 256 + emu.cpu.a.toNat / 256 := by decide

theorem stack_ram_of_default {s : State} (h : s.cfg = defaultConfig) {n : Nat}
    (hp : (pushOffsets s.cpu.e n s.cpu.s).Pairwise fun o o' => s.busAddr 0x00 o ≠ s.busAddr 0x00 o') :
    s.StackRam n := ⟨fun _ _ => ram_of_default h _ _, hp⟩

theorem witness_StackPrimitives :
    (∃ t, PushesByte (((0x0000 : Word) >>> 8).setWidth 8) (stackBus 0x01FF 1 0x01FF) t) ∧
      SpAbove false 0xFFFF 0x0000 ∧ SpAbove true 0x01FF 0x0100 ∧
      ∃ l t, PopsByte l (stackBus 0x0200 1 0x01FF) t ∧ SpAbove t.cpu.e t.cpu.s 0x0201 ∧
        busLoad 0x00 0x0201 (t.setS 0x0201) = .error (.busUnmapped 0x00 0x0201) :=
  ⟨⟨_, _, _, rfl, spBelow_iff.mpr rfl, rfl⟩, by unfold SpAbove; decide, by unfold SpAbove; decide,
    _, _, ⟨_, spAbove_iff.mpr rfl, rfl⟩, spAbove_iff.mpr rfl, rfl⟩

theorem witness_StackIsLastInFirstOut :
    let s := emu.setS 0x0100
    Memory.wf s.mem ∧ s.cpu.e = true ∧ hi s.cpu.s = 0x01 ∧ s.StackRam 2 :=
  ⟨by decide, rfl, by decide, stack_ram_of_default rfl (by decide)⟩

theorem witness_PushesRun :
    emu.m8 = true ∧ emu.x8 = true ∧ nat16.m8 = false ∧ nat16.x8 = false ∧
      (∃ t, PushesByte (lo emu.cpu.a) emu t) ∧ (∃ t, PushesByte emu.cpu.p emu t) ∧
      (∃ t, PushesWord nat16.cpu.x nat16 t) ∧ ∃ t, PushesWord (emu.setS 0x0100).cpu.d (emu.setS 0x0100) t :=
  ⟨rfl, rfl, rfl, rfl, (pushes_byte rfl _).imp fun _ h => h.1, (pushes_byte rfl _).imp fun _ h => h.1,
    (pushes_word rfl _).imp fun _ h => h.1, (pushes_word rfl _).imp fun _ h => h.1⟩

theorem witness_PullsRun :
    emu.narrow .x = true ∧ nat16.narrow .y = false ∧ (∃ v t, PopsByte v emu t) ∧ ∃ v t, PopsWord v nat16 t := by
  obtain ⟨v, t, h, -⟩ := pops_byte (s := emu) rfl
  obtain ⟨w, u, k, -⟩ := pops_word (s := nat16) rfl
  exact ⟨rfl, rfl, ⟨v, t, h⟩, w, u, k⟩

theorem witness_BranchesRun :
    (Instr.bne 0x80).variant? = some (.rel 0x80) ∧ (Instr.bne 0x80).mnemonic.Taken 0x34 ∧
      ¬ (Instr.beq 0x80).mnemonic.Taken 0x34 ∧
      ((0xFF80 : Word).toNat : Int) = ((emu.setPc 0x0000).cpu.pc.toNat + (0x80 : Byte).toInt) % 65536 := by
  refine ⟨rfl, ?_, ?_, by decide⟩ <;> simp only [Instr.mnemonic, Mnemonic.Taken] <;> decide

theorem witness_JumpCallAndReturnRun :
    (0xFFFF : Word).toNat = ((nat8.setPc 0x0000).cpu.pc.toNat + 65535) % 65536 ∧
      (0x0000 : Word).toNat = ((0xFFFF : Word).toNat + 1) % 65536 ∧ nat8.cfg.callStackOrder = .pbrOnTop ∧
      (deepest nat8).cfg.callStackOrder = .pbrDeepest ∧
      (∃ t u, PushesWord 0xFFFF (nat8.setPc 0x0000) t ∧ PushesByte 0x00 t u) ∧
      (∃ t u, PushesByte 0x00 nat8 t ∧ PushesWord 0xFFFF t u) ∧ (∃ k ra t u, PopsByte k nat8 t ∧ PopsWord ra t u) ∧
      ∃ k ra t u, PopsWord ra nat8 t ∧ PopsByte k t u := by
  obtain ⟨t, h, hc⟩ := pushes_word (s := nat8.setPc 0x0000) rfl 0xFFFF
  obtain ⟨u, k, -⟩ := pushes_byte hc 0x00
  obtain ⟨t', h', hc'⟩ := pushes_byte (s := nat8) rfl 0x00
  obtain ⟨u', k', -⟩ := pushes_word hc' 0xFFFF
  obtain ⟨b, x, hx, hcx⟩ := pops_byte (s := nat8) rfl
  obtain ⟨ra, y, hy, -⟩ := pops_word hcx
  obtain ⟨ra', x', hx', hcx'⟩ := pops_word (s := nat8) rfl
  obtain ⟨b', y', hy', -⟩ := pops_byte hcx'
  exact ⟨by decide, by decide, rfl, rfl, ⟨t, u, h, k⟩, ⟨t', u', h', k'⟩, ⟨b, ra, x, y, hx, hy⟩, b', ra', x', y', hx', hy'⟩

theorem witness_CallAndReturnPairUp :
    let s := (emu.setS 0x0101).setPc 0x0000
    Memory.wf s.mem ∧ s.cpu.e = true ∧ hi s.cpu.s = 0x01 ∧ s.StackRam 3 ∧ s.cpu.pc = 0xFFFC + 4 ∧
      ∃ t, exec (.jsl 0x01 0x1234) s = .next t :=
  ⟨by decide, rfl, by decide, stack_ram_of_default rfl (by decide), by decide, _, rfl⟩

theorem witness_FlagInstructionsRun : Instr.sed = .sed ∧ encode .sed = [0xF8] := ⟨rfl, rfl⟩

theorem witness_MaskInstructionsRun : nat8.cpu.e = false ∧ emu.cpu.e = true := by decide

theorem witness_ModeExchangeRuns :
    getFlag emu.cpu.p .c = false ∧ getFlag (nat16.setP 0x05).cpu.p .c = true ∧
      (0x01F0 : Word).toNat = 0x100 + ((nat16.setP 0x05).setS 0x1FF0).cpu.s.toNat % 256 := by decide

theorem witness_NopAndReturnFromInterruptRun :
    emu.cpu.e = true ∧ nat16.cpu.e = false ∧
      ∃ p t pc u b w, PopsByte p nat16 t ∧ PopsWord pc (t.setP p) u ∧ PopsByte b (u.setPc pc) w := by
  obtain ⟨p, t, h, hc⟩ := pops_byte (s := nat16) rfl
  obtain ⟨pc, u, k, hd⟩ := pops_word (s := t.setP p) hc
  obtain ⟨b, w, l, -⟩ := pops_byte (s := u.setPc pc) hd
  exact ⟨rfl, rfl, p, t, pc, u, b, w, h, k, l⟩

/-! #### The interrupt and the frames -/

theorem witness_InterruptEntry :
    (∃ x y f u w lb hb, PushesByte nat16.cpu.pbr nat16 x ∧ PushesWord nat16.cpu.pc x y ∧
        PushesByte nat16.cpu.p y f ∧ getFlag 0x04 .i = true ∧ getFlag 0x04 .d = false ∧
        busLoad 0x00 nat16.cfg.nmiVectorNative ((f.setP 0x04).jump 0x00 f.cpu.pc) = .ok (lb, u) ∧
        busLoad 0x00 (nat16.cfg.nmiVectorNative + 1) u = .ok (hb, w)) ∧
      ∃ y f u w lb hb, PushesWord emu.cpu.pc emu y ∧ PushesByte emu.cpu.p y f ∧
        busLoad 0x00 emu.cfg.nmiVectorEmu ((f.setP 0x34).jump 0x00 f.cpu.pc) = .ok (lb, u) ∧
        busLoad 0x00 (emu.cfg.nmiVectorEmu + 1) u = .ok (hb, w) := by
  obtain ⟨x, hx, cx⟩ := pushes_byte (s := nat16) rfl nat16.cpu.pbr
  obtain ⟨y, hy, cy⟩ := pushes_word cx nat16.cpu.pc
  obtain ⟨f, hf, cf⟩ := pushes_byte cy nat16.cpu.p
  obtain ⟨y', hy', cy'⟩ := pushes_word (s := emu) rfl emu.cpu.pc
  obtain ⟨f', hf', cf'⟩ := pushes_byte cy' emu.cpu.p
  exact ⟨⟨x, y, f, _, _, _, _, hx, hy, hf, by decide, by decide,
      busLoad_plain (ram_of_default (s := (f.setP 0x04).jump 0x00 f.cpu.pc) cf _ _).1,
      busLoad_plain (ram_of_default (s := (f.setP 0x04).jump 0x00 f.cpu.pc) cf _ _).1⟩,
    y', f', _, _, _, _, hy', hf',
    busLoad_plain (ram_of_default (s := (f'.setP 0x34).jump 0x00 f'.cpu.pc) cf' _ _).1,
    busLoad_plain (ram_of_default (s := (f'.setP 0x34).jump 0x00 f'.cpu.pc) cf' _ _).1⟩

theorem witness_ReturnUndoesTheEntry :
    Memory.wf emu.mem ∧ hi emu.cpu.s = 0x01 ∧ emu.StackRam 3 ∧ nat16.StackRam 4 ∧
      emu.PlainRead 0x00 emu.nmiVector ∧ emu.PlainRead 0x00 (emu.nmiVector + 1) :=
  ⟨by decide, by decide, stack_ram_of_default rfl (by decide), stack_ram_of_default rfl (by decide), (ram_of_default rfl _ _).1,
    (ram_of_default rfl _ _).1⟩

theorem witness_RegistersAndFlagsFrame :
    (∃ t, exec (.staAbs 0xFFFE) nat16 = .next t) ∧ .a ∉ (Instr.staAbs 0xFFFE).writes ∧
      .c ∉ (Instr.incAbs 0xFFFE).writesFlags ∧ emu.m8 = true ∧ Instr.inx.mnemonic ∉ [.TSC, .TDC, .XBA] ∧
      emu.x8 = true ∧ emu.NoDevices :=
  ⟨⟨_, rfl⟩, by decide, by decide, rfl, by decide, rfl, no_devices_of_default rfl⟩

theorem no_dma_of_default {s : State} (h : s.cfg = defaultConfig) (b : Byte) (o : Word) : s.NoDma b o := by
  intro w hw
  have := no_devices_of_default h w (windowAt_mem hw)
  rw [this]
  nofun

theorem runs_of_test {i : Instr} {s : State}
    (h : (match exec i s with | .next _ => true | _ => false) = true) : ∃ t, exec i s = .next t :=
  (next_of_test (f := fun _ => true) h).imp fun _ k => k.1

theorem load_runs : ∃ t, exec (.ldaAbs 0xFFFE) nat16 = .next t := runs_of_test (by decide +kernel)

theorem store_runs : ∃ t, exec (.staAbs 0xFFFE) nat16 = .next t := runs_of_test (by decide +kernel)

theorem call_runs : ∃ t, exec (.jsl 0x01 0x1234) nat16 = .next t := runs_of_test (by decide +kernel)

theorem apart_store : nat16.Apart 0x00 0x0000 0x00 0xFFFE ∧ nat16.Apart 0x00 0x0000 0x00 (0xFFFE + 1) := by
  unfold State.Apart; decide +kernel

theorem witness_MemoryFrame :
    nat16.Quiet ∧ (∃ t, exec (.ldaAbs 0xFFFE) nat16 = .next t) ∧ (Instr.ldaAbs 0xFFFE).writesMemory = false ∧
      (∃ t, exec (.staAbs 0xFFFE) nat16 = .next t) ∧ (Instr.staAbs 0xFFFE).mnemonic.isStore = true ∧
      address (.abs 0xFFFE) nat16 = .ok ((0x00, 0xFFFE), nat16) ∧ nat16.NoDma 0x00 0xFFFE ∧
      nat16.NoDma 0x00 (0xFFFE + 1) ∧ nat16.Apart 0x00 0x0000 0x00 0xFFFE ∧ nat16.Apart 0x00 0x0000 0x00 (0xFFFE + 1) ∧
      (∃ t, exec (.jsl 0x01 0x1234) nat16 = .next t) ∧ (Instr.jsl 0x01 0x1234).mnemonic.isPush = true ∧
      (∀ x ∈ pushOffsets nat16.cpu.e ((Instr.jsl 0x01 0x1234).pushes nat16) nat16.cpu.s, nat16.NoDma 0x00 x) ∧
      ∀ x ∈ pushOffsets nat16.cpu.e ((Instr.jsl 0x01 0x1234).pushes nat16) nat16.cpu.s,
        nat16.Apart 0x00 0x0200 0x00 x := by
  refine ⟨NoDevices.quiet (no_devices_of_default rfl), load_runs, rfl, store_runs, rfl,
    address_eq_ok.mpr ⟨rfl, rfl, rfl⟩, no_dma_of_default rfl _ _, no_dma_of_default rfl _ _, apart_store.1,
    apart_store.2, call_runs, rfl, fun _ _ => no_dma_of_default rfl _ _, ?_⟩
  have off : pushOffsets nat16.cpu.e ((Instr.jsl 0x01 0x1234).pushes nat16) nat16.cpu.s = [0x01FF, 0x01FE, 0x01FD] := by
    decide
  rw [off]
  simp only [List.forall_mem_cons, State.Apart]
  exact ⟨by decide, by decide, by decide, nofun⟩

/-! #### The picture processor -/

theorem dot_before_blank (nmi : Bool) : ∃ u, ppuAdvance (beforeBlank nmi) = .ok (dotEvents u, u) ∧ u.dots.h = 0 ∧
    u.dots.v = (beforeBlank nmi).cfg.geometry.vblankLine := ⟨_, rfl, rfl, rfl⟩

theorem witness_OneDot :
    (∃ ev t, ppuAdvance (beforeBlank true) = .ok (ev, t)) ∧ (beforeBlank true).dots.tiles.length ≤ 34 ∧
      ¬ ((beforeBlank true).dots.h < (beforeBlank true).cfg.geometry.visibleW ∧
        (beforeBlank true).dots.v < (beforeBlank true).cfg.geometry.visibleH) ∧
      picture8.dots.h < picture8.cfg.geometry.visibleW ∧ picture8.dots.v < picture8.cfg.geometry.visibleH ∧
      (∃ c u, pixel 0 0 (rebuild 0 picture8) = .ok (c, u)) ∧
      ∃ f, pixel 0 0 (rebuild 0 { picture8 with pic := { picture8.pic with bgMode := 2 } }) = .error f := by
  refine ⟨(dot_before_blank true).elim fun _ h => ⟨_, _, h.1⟩, by decide, by decide, by decide, by decide, ?_, _, rfl⟩
  obtain ⟨r, h, -⟩ := ok_of_test (r := pixel 0 0 (rebuild 0 picture8)) (f := fun _ => true) (by decide +kernel)
  exact ⟨r.1, r.2, h⟩

theorem witness_BlankingFrequency :
    let g := defaultGeometry
    0 < g.hblankDot ∧ g.hblankDot < g.dotsPerLine ∧ g.visibleH ≤ g.vblankLine ∧ g.vblankLine < g.linesPerFrame ∧
      340 < g.dotsPerLine ∧ 261 < g.linesPerFrame := by decide

theorem pixel_runs : ∃ c t, pixel 0 10 emu = .ok (c, t) := by
  obtain ⟨r, h, -⟩ := ok_of_test (r := pixel 0 10 emu) (f := fun _ => true) (by decide +kernel)
  exact ⟨r.1, r.2, h⟩

theorem witness_TileListIsTheScanOfItsLine :
    (∃ sel range, emu.scan 10 ((List.range 128).map emu.scanIndex) [] emu.dots.rangeOver = (sel, range) ∧
      ∃ tiles time, emu.emit 10 sel.reverse [] emu.dots.timeOver = (tiles, time)) ∧
      (∃ c t, pixel 0 10 emu = .ok (c, t)) ∧ emu.dots.tilesLine ≠ some 10 ∧
      (rebuild 10 emu).dots.tilesLine = some 10 ∧
      sprite5.SizeIs (sprite5.pic.oam.get 5) 32 32 ∧ sprite5.SizeIs (sprite5.pic.oam.get 0) 16 16 ∧
      XIs (sprite5.pic.oam.get 5) (-20) ∧ XIs { offscreen with x := 256 } 0 ∧ RowIs (sprite5.pic.oam.get 5) 3 9 ∧
      ∃ d, (sprite5.spriteTiles 3 5)[3]? = some d :=
  ⟨⟨_, _, Prod.mk.eta.symm, _, _, Prod.mk.eta.symm⟩,
    pixel_runs, by decide, rfl, ⟨_, rfl, by decide, by decide⟩, ⟨_, rfl, by decide, by decide⟩, .inr (by decide),
    .inl (by decide), by unfold RowIs; decide, _, rfl⟩

/-- A debug region of two pixels that lists one index. -/
def debugging : State :=
  { picture8 with cfg := { picture8.cfg with debugRegion := { width := 2, height := 1, index := [0x8D] } } }

theorem test_debug_region : channels 0 0 debugging = some (128, 0, 0) ∧ channels 2 0 debugging = channels 2 0 picture8 := by
  decide +kernel

theorem witness_FirstOpaqueCandidateWins :
    ¬ (0 < emu.cfg.debugRegion.width ∧ 0 < emu.cfg.debugRegion.height) ∧
      1 < debugging.cfg.debugRegion.width ∧ 0 < debugging.cfg.debugRegion.height ∧
      debugging.cfg.debugRegion.index[0 * debugging.cfg.debugRegion.width + 0]? = some 0x8D ∧
      debugging.cfg.debugRegion.index[0 * debugging.cfg.debugRegion.width + 1]? = none ∧ emu.cfg.bgModeTable.get (2 : BitVec 3).toFin = none ∧
      emu.dots.h = 0 ∧ emu.dots.v = 0 ∧ 0 < emu.cfg.geometry.visibleW ∧ 0 < emu.cfg.geometry.visibleH ∧
      emu.cfg.bgModeTable.get emu.pic.bgMode.toFin = some bgMode0 ∧
      (∀ d ∈ bgMode0.order, (ensureTiles 1 emu).candidate bgMode0 0 1 d = none) ∧
      bgMode0.order = [.sprite 3] ++ .bg 0 true :: bgMode0.order.drop 2 ∧
      (∀ d ∈ [Candidate.sprite 3], (ensureTiles 0 picture8).candidate bgMode0 0 0 d = none) ∧
      (ensureTiles 0 picture8).candidate bgMode0 0 0 (.bg 0 true) = some 7 := by
  decide +kernel

theorem witness_CandidateColoursInRange :
    (∃ k, (ensureTiles 0 picture8).spriteCandidate 2 3 = some k) ∧ ∃ k, picture8.bgCandidate bgMode0 0 true 0 0 = some k :=
  ⟨⟨173, by decide +kernel⟩, 7, by decide +kernel⟩

/-- The two sprites of V13 under each lookup: both cover columns 0 to 7; the first in the list is transparent at column
0, the second is not. -/
theorem witness_sprite_candidate (l : SpriteLookup) :
    (stacked l 2 0).cfg.spriteLookup = l ∧
      (stacked l 2 0).dots.tiles = [⟨0, 0, 0, 1, 1⟩] ++ ⟨64, 0, 0, 1, 0⟩ :: [] ∧
      Tile.Covers ⟨0, 0, 0, 1, 1⟩ 0 1 ∧ Tile.Covers ⟨64, 0, 0, 1, 0⟩ 7 1 ∧ ¬ Tile.Covers ⟨64, 0, 0, 1, 0⟩ 8 1 ∧
      (stacked l 2 0).TileIndexIs ⟨0, 0, 0, 1, 1⟩ 0 0 ∧ (stacked l 2 0).TileIndexIs ⟨64, 0, 0, 1, 0⟩ 0 1 := by
  refine ⟨rfl, ?_, ?_, ?_, ?_, ⟨0, rfl, ?_⟩, ⟨0, rfl, ?_⟩⟩
  · cases l <;> decide +kernel
  · unfold Tile.Covers; decide
  · unfold Tile.Covers; decide
  · unfold Tile.Covers; decide
  · cases l <;> decide +kernel
  · cases l <;> decide +kernel

theorem witness_bg_candidate :
    bgMode0.depth.get 0 = some .two ∧ bgMode1.depth.get 3 = none ∧
      (0x2407 : Word).toNat = (bytesRead picture8.pic.vram ((2 * 0x400 + 1) % picture8.cfg.vramBytes)).toNat * 256
        + (bytesRead picture8.pic.vram (2 * 0x400 % picture8.cfg.vramBytes)).toNat ∧
      picture8.mapAddress 0 0 0 = 0x400 ∧ (tilemapEntry 0x2407).prio = true := by
  decide +kernel

theorem witness_palette_base :
    picture8.PaletteBaseIs 0 2 1 4 ∧ scrolled.PaletteBaseIs 3 2 7 28 ∧ picture8.PaletteBaseIs 3 4 7 112 ∧
      picture8.PaletteBaseIs 3 8 7 0 := by
  refine ⟨.inl ?_, .inr (.inl ?_), .inr (.inr (.inl ?_)), .inr (.inr (.inr ?_))⟩ <;> decide

theorem witness_BitplanesDecode : (8 = 2 ∨ 8 = 4 ∨ 8 = 8) ∧ 7 < 8 := by decide

theorem witness_TilemapEntriesAndAddresses :
    (picture8.pic.layers.get 0).mapHmirror = true ∧ (picture8.pic.layers.get 0).mapVmirror = true ∧
      ((unmirrored true false).pic.layers.get 0).mapHmirror = true ∧
      ((unmirrored true false).pic.layers.get 0).mapVmirror = false ∧
      ((unmirrored false true).pic.layers.get 0).mapHmirror = false ∧
      ((unmirrored false true).pic.layers.get 0).mapVmirror = true ∧
      ((unmirrored false false).pic.layers.get 0).mapHmirror = false ∧
      ((unmirrored false false).pic.layers.get 0).mapVmirror = false := by decide +kernel

end Sys2Proof.Machine
end

section
/-! SUPPORT. What the N and Z helper makes of P, as the relations of the claims say it. -/

namespace Sys2Proof.Machine

theorem FlagsBecome.refl (p : Byte) : FlagsBecome p p none none none none :=
  ⟨rfl, rfl, rfl, rfl, rfl, rfl, rfl, rfl⟩

/-- After any flag computation, N and Z from a value replace what it made of these two and keep the rest (00 R12). -/
theorem flagsBecome_setnz {p q : Byte} {n v z c : Option Bool} (h : FlagsBecome p q n v z c) {w : Nat} (r : BitVec w) :
    FlagsBecome p (setnz q r) (some r.msb) v (some (decide (r.toNat = 0))) c where
  n := getFlag_setnz_n q r
  z := by
    rw [getFlag_setnz_z, Option.getD_some, beq_eq_decide]
    exact decide_eq_decide.mpr BitVec.toNat_eq
  v := by simp [getFlag_setnz, h.v]
  m := by simp [getFlag_setnz, h.m]
  x := by simp [getFlag_setnz, h.x]
  d := by simp [getFlag_setnz, h.d]
  i := by simp [getFlag_setnz, h.i]
  c := by simp [getFlag_setnz, h.c]

theorem nzBecome_setnz (p : Byte) {w : Nat} (r : BitVec w) : NzBecome p (setnz p r) r :=
  flagsBecome_setnz (FlagsBecome.refl p) r

end Sys2Proof.Machine
end

section
/-! PROOFS. Loads (41 R150 to R153). -/

namespace Sys2Proof.Machine

/-- A load over a variant is the shared operand shape on its register, in every form. -/
theorem exec_load {i : Instr} {am : Variant} {r : Reg} (s : State)
    (hi : i.mnemonic = .LDA ∧ r = .a ∨ i.mnemonic = .LDX ∧ r = .x ∨ i.mnemonic = .LDY ∧ r = .y)
    (hv : i.variant? = some am) : exec i s = finish (regOperand loadAlu r am s) := by
  rcases hi with ⟨hm, rfl⟩ | ⟨hm, rfl⟩ | ⟨hm, rfl⟩ <;> exact exec_over hv (by rw [hm]; rfl)

/-- Settles O25: every load is `regOperand`, whose result at each width is known from the operand read; N and Z are
those of `setnz`. -/
theorem loadsRun : Obligations.LoadsRun := by
  intro i am s t r hi hv
  rw [exec_load s hi hv]
  constructor
  · intro hn v hl
    exact ⟨_, nzBecome_setnz s.cpu.p v, congrArg finish (regOperand_byte hn hl)⟩
  · intro hn v hl
    exact ⟨_, nzBecome_setnz s.cpu.p v, congrArg finish (regOperand_word hn hl)⟩

end Sys2Proof.Machine
end

section
/-! PROOFS. The invariant of the machine: what each part of an iteration makes of it (10_state R23, R45, R47, 48
R323). -/

namespace Sys2Proof.Machine

/-- What keeps the clock, the canonical forms and the stack page keeps the invariant. -/
theorem Safe.inv {s t : State} (h : Safe s t) (hs : s.Inv) : t.Inv where
  mem := h.mem hs.mem
  vram := h.vram hs.vram
  page := h.page hs.page
  tiles := h.clock.tiles ▸ hs.tiles
  dotH := by rw [h.clock.dotH, h.clock.cfg]; exact hs.dotH
  dotV := by rw [h.clock.dotV, h.clock.cfg]; exact hs.dotV
  frame := h.clock.frame ▸ hs.frame
  ppuDebt := by rw [h.clock.ppuDebt, h.clock.cfg]; exact hs.ppuDebt
  apuDebt := by rw [h.clock.apuDebt, h.clock.cfg]; exact hs.apuDebt

/-! ### The parts of an iteration that touch no clock -/

theorem clearDma_touched (s : State) : Touched s s.clearDma :=
  ⟨⟨⟨rfl, rfl, rfl, rfl, rfl, rfl, rfl, rfl, rfl, rfl⟩, id, id⟩, rfl⟩

theorem inputLatch_touched (s : State) : Touched s (inputLatch s) :=
  ⟨Kept.of_fields rfl rfl rfl rfl rfl rfl, rfl⟩

theorem markIrq_touched (s : State) : Touched s s.markIrq :=
  ⟨⟨⟨rfl, rfl, rfl, rfl, rfl, rfl, rfl, rfl, rfl, rfl⟩, id, id⟩, rfl⟩

theorem fetchInstr_safe {s u : State} {r : Byte × Instr} (h : fetchInstr s = .ok (r, u)) : Safe s u := by
  obtain ⟨k, -, -, pc, hc⟩ := fetchInstr_keeps h
  exact Safe.of_cpu k (by rw [hc]) (by rw [hc])

/-! ### The accounting and the two drains -/

/-- The cycles charged raise the picture debt, and the audio drain brings the audio debt back to the divisor (48 R321
step 5, R331). -/
theorem inv_apuDrain_charge {s : State} (hd : 0 < s.cfg.apuDivisor) (hs : s.Inv) (n : Nat) :
    (apuDrain (s.charge n)).Inv where
  mem := hs.mem
  vram := hs.vram
  page := hs.page
  tiles := hs.tiles
  dotH := hs.dotH
  dotV := hs.dotV
  frame := hs.frame
  ppuDebt := by
    have hp := hs.ppuDebt
    change -(s.cfg.dotMasterCycles : Int) < s.sched.ppuDebt + (n : Int)
    omega
  apuDebt := (apuDrain_debt (s := s.charge n) hd).1

/-- One dot paid for out of a positive debt (48 R332, 49 R361). -/
theorem inv_dot {s u : State} {ev : DotEvents} (hp : s.sched.ppuDebt > 0) (h : ppuAdvance s = .ok (ev, u))
    (hs : s.Inv) : (u.payDots ev.cycles).Inv := by
  obtain ⟨k, hh, hv, ht, hf, hc, -, -⟩ := ppuAdvance_keeps h
  constructor
  case mem => exact k.mem ▸ hs.mem
  case vram => simpa only [State.payDots_cfg, State.payDots_pic, k.cfg, k.pic] using hs.vram
  case page => simpa only [State.payDots_cpu, k.cpu] using hs.page
  case tiles => exact ht hs.tiles
  case dotH => rw [State.payDots_dots, State.payDots_cfg, k.cfg, hh]; exact nextH_lt hs.dotH
  case dotV => rw [State.payDots_dots, State.payDots_cfg, k.cfg, hv]; exact nextV_lt hs.dotV
  case frame => exact hf hs.frame
  case ppuDebt =>
    simp only [State.payDots_cfg, State.payDots_sched, k.cfg, k.sched, hc]
    omega
  case apuDebt => simpa only [State.payDots_cfg, State.payDots_sched, k.cfg, k.sched] using hs.apuDebt

/-- The picture drain: dots, input latches and at most one interrupt (48 R332, R334). -/
theorem inv_ppuDrain {s t : State} (hc : 0 < s.cfg.dotMasterCycles) (h : ppuDrain s = .ok t) : s.Inv → t.Inv := by
  refine ppuDrain_induct (P := fun s t => s.Inv → t.Inv) hc ?idle ?dot ?latch ?deliver h
  case idle => exact fun _ _ hs => hs
  case dot => exact fun s u ev t hp ha _ ih hs => ih (inv_dot hp ha hs)
  case latch =>
    exact fun s u ev t hp ha _ _ ih hs => ih ((Safe.of_touched (inputLatch_touched _)).inv (inv_dot hp ha hs))
  case deliver =>
    intro s u ev t hp ha _ _ hi hs
    have pre := (inputLatch_touched (u.payDots ev.cycles)).trans (markIrq_touched _)
    exact ((Safe.of_touched pre).trans (cpuInterrupt_safe hi)).inv (inv_dot hp ha hs)

/-- What `configOk` says of the two divisors an iteration uses (93 item 18). -/
theorem configOk_pos {c : Config} (h : configOk c = true) : 0 < c.apuDivisor ∧ 0 < c.dotMasterCycles := by
  simp only [configOk, Bool.and_eq_true, decide_eq_true_eq] at h
  tauto

/-- The accounting of an instruction and the drains after it (48 R321 steps 4 to 7). -/
theorem inv_settle {op : Byte} {s t : State} (hc : configOk s.cfg = true) (hs : s.Inv) (h : settle op s = .ok t) :
    t.Inv := by
  obtain ⟨hd, hm⟩ := configOk_pos hc
  exact inv_ppuDrain (s := apuDrain (s.charge (s.masterCost op))) hm h (inv_apuDrain_charge hd hs _)

/-- Settles O12: a step is a fetch, an instruction and the settling of its cycles, and each keeps the invariant. -/
theorem everyStepKeepsInv : Obligations.EveryStepKeepsInv := by
  intro s t hs h
  obtain ⟨hr, op, i, u, w, hf, he, hw⟩ := step_eq_next h
  have safe : Safe s w := ((Safe.of_touched (clearDma_touched s)).trans (fetchInstr_safe hf)).trans (exec_safe he)
  exact inv_settle (by rw [safe.clock.cfg]; exact hr.params) (safe.inv hs) hw

/-- Settles O13: the lists are empty, the counters and debts 0, and the suggested parameters are not refused. -/
theorem resetHasInv : Obligations.ResetHasInv := by
  constructor
  · exact ⟨bytesWf_nil _, fun _ => bytesWf_nil _, by decide, by decide, by decide, by decide, List.Pairwise.nil,
      by decide, by decide⟩
  · exact ⟨rfl, by decide, rfl, rfl⟩

end Sys2Proof.Machine
end

section
/-! PROOFS. Transfers (44 R220 to R233) and the mode exchange (47 R309). -/

namespace Sys2Proof.Machine

/-! ### The shared operation -/

theorem transfer_narrow {s : State} {r : Reg} (hn : s.narrow r = true) (v : Word) :
    transfer r v s = (s.setRegLo r (lo v)).setP (setnz s.cpu.p (lo v)) := by rw [transfer, if_pos hn]; rfl

theorem transfer_wide {s : State} {r : Reg} (hn : s.narrow r = false) (v : Word) :
    transfer r v s = (s.setReg r v).setP (setnz s.cpu.p v) := by rw [transfer, if_neg (by simp [hn])]; rfl

/-- Between the index registers the width of source and destination is the same, so the register may stand for its value
as a source (10 R26). -/
theorem transfer_index_xi (s : State) : transfer .y s.cpu.x s = transfer .y s.xi s := by
  cases hx : s.x8
  · rw [State.xi, hx, if_neg Bool.false_ne_true]
  · rw [transfer_narrow (r := .y) hx, transfer_narrow (r := .y) hx, State.xi, hx, if_pos rfl, lo_zext16]

theorem transfer_index_yi (s : State) : transfer .x s.cpu.y s = transfer .x s.yi s := by
  cases hx : s.x8
  · rw [State.yi, hx, if_neg Bool.false_ne_true]
  · rw [transfer_narrow (r := .x) hx, transfer_narrow (r := .x) hx, State.yi, hx, if_pos rfl, lo_zext16]

/-- Settles O36: each of the seven is `transfer` of its source to its destination, a write at the width of the
destination with the flags of `setnz`. -/
theorem transfersRun : Obligations.TransfersRun := by
  intro i s r v hi
  have run : exec i s = .next (transfer r v s) := by
    rcases hi with ⟨rfl, rfl, rfl⟩ | ⟨rfl, rfl, rfl⟩ | ⟨rfl, rfl, rfl⟩ | ⟨rfl, rfl, rfl⟩ | ⟨rfl, rfl, rfl⟩
      | ⟨rfl, rfl, rfl⟩ | ⟨rfl, rfl, rfl⟩
    case inr.inr.inr.inr.inl => exact congrArg Host.Outcome.next (transfer_index_xi s)
    case inr.inr.inr.inr.inr.inl => exact congrArg Host.Outcome.next (transfer_index_yi s)
    all_goals rfl
  constructor
  · intro hn
    exact ⟨_, nzBecome_setnz _ (lo v), by rw [run, transfer_narrow hn]⟩
  · intro hn
    exact ⟨_, nzBecome_setnz _ v, by rw [run, transfer_wide hn]⟩

/-! ### Transfers of 16 bits -/

/-- The pointer in the page of emulation mode, as a number (10 R23). -/
theorem eq_stackPage {v sp : Word} (h : sp.toNat = 0x100 + v.toNat % 256) : sp = stackPage (lo v) :=
  BitVec.eq_of_toNat_eq (by rw [h, stackPage_toNat, lo_toNat])

theorem eq_swapped {a v : Word} (h : v.toNat = a.toNat % 256 * 256 + a.toNat / 256) : v = word (lo a) (hi a) :=
  eq_word_of_toNat (by rw [h, lo_toNat, hi_toNat])

theorem txs_emulation {s : State} (he : s.cpu.e = true) : txs s = .ok (s.setS (stackPage (lo s.cpu.x))) := by
  rw [txs, if_pos he]

theorem txs_native {s : State} (he : s.cpu.e = false) : txs s = .ok (s.setS s.xi) := by
  rw [txs, if_neg (by simp [he])]

theorem tcs_emulation {s : State} (he : s.cpu.e = true) : tcs s = .ok (s.setS (stackPage (lo s.cpu.a))) := by
  rw [tcs, if_pos he]

theorem tcs_native {s : State} (he : s.cpu.e = false) : tcs s = .ok (s.setS s.cpu.a) := by
  rw [tcs, if_neg (by simp [he])]

/-- Settles O37: TXS and TCS are writes of S, the others a 16-bit write with the flags of `setnz`. -/
theorem sixteenBitTransfersRun : Obligations.SixteenBitTransfersRun := by
  intro s
  refine ⟨?txsEmu, ?txsNative, ?tcsEmu, ?tcsNative, ?tsc, ?tcd, ?tdc, ?xba⟩
  case txsEmu =>
    intro he sp hsp
    obtain rfl := eq_stackPage hsp
    exact congrArg finish (txs_emulation he)
  case txsNative => exact fun he => congrArg finish (txs_native he)
  case tcsEmu =>
    intro he sp hsp
    obtain rfl := eq_stackPage hsp
    exact congrArg finish (tcs_emulation he)
  case tcsNative => exact fun he => congrArg finish (tcs_native he)
  case tsc => exact ⟨_, nzBecome_setnz _ s.cpu.s, rfl⟩
  case tcd => exact ⟨_, nzBecome_setnz _ s.cpu.a, rfl⟩
  case tdc => exact ⟨_, nzBecome_setnz _ s.cpu.d, rfl⟩
  case xba =>
    intro v hv
    obtain rfl := eq_swapped hv
    refine ⟨_, nzBecome_setnz _ (lo (word (lo s.cpu.a) (hi s.cpu.a))), ?_⟩
    rw [lo_word]
    rfl

/-! ### The mode exchange -/

/-- A write of the carry is a write of no other flag. -/
theorem flagsBecome_setC (p : Byte) (b : Bool) : FlagsBecome p (setFlag p .c b) none none none (some b) where
  c := getFlag_setFlag_same p .c b
  n := getFlag_setFlag_other p b nofun
  v := getFlag_setFlag_other p b nofun
  m := getFlag_setFlag_other p b nofun
  x := getFlag_setFlag_other p b nofun
  d := getFlag_setFlag_other p b nofun
  i := getFlag_setFlag_other p b nofun
  z := getFlag_setFlag_other p b nofun

/-- Settles O47: by the old carry, which is the new E. -/
theorem modeExchangeRuns : Obligations.ModeExchangeRuns := by
  intro s
  refine ⟨setFlag s.cpu.p .c s.cpu.e, _, rfl, flagsBecome_setC _ _, ?_, ?_⟩
  · intro hc
    rw [hc]
    rfl
  · intro hc sp hsp
    obtain rfl := eq_stackPage hsp
    rw [hc]
    rfl

end Sys2Proof.Machine
end

section
/-! PROOFS. Construction (10 R50, 70 R470, R471) and the two control registers of the bus (20 R68, R75, 48 R339). -/

namespace Sys2Proof.Machine

/-! ### Construction -/

theorem readThen_assoc {α β γ : Type} (r : Except Fault (α × State)) (k : α → State → Except Fault (β × State))
    (l : β → State → Except Fault γ) : readThen (readThen r k) l = readThen r fun a s => readThen (k a s) l := by
  cases r <;> rfl

/-- Construction reads the two bytes of the vector, low byte first, and makes them PC (70 R470). -/
theorem construct_eq (l : Launch) :
    construct l = readThen (busLoad 0x00 0xFFFC l.state) fun lb s =>
      readThen (busLoad 0x00 0xFFFD s) fun hb t => .ok (t.setPc (word hb lb)) := by
  rw [construct, busLoadWord, readThen_assoc]
  simp only [readThen_assoc, readThen_ok]
  rfl

/-- Settles O15: the reads change neither the CPU nor the clock, so every other field is that of `Launch.state`. -/
theorem constructionReadsTheResetVector : Obligations.ConstructionReadsTheResetVector := by
  refine ⟨?fields, ?plain, ?faults⟩
  case fields =>
    intro l s t lb hb hl hh
    have loaded := (busLoad_loaded hl).trans (busLoad_loaded hh)
    have clock := loaded.clock
    refine ⟨t.setPc (word hb lb), by rw [construct_eq, hl, readThen_ok, hh, readThen_ok], word_toNat hb lb, ?_⟩
    simp [loaded.cpu, loaded.dma, clock.halt, clock.master, clock.apuDebt, clock.ppuDebt, clock.dotH, clock.dotV,
      clock.tiles, clock.tilesLine, clock.cfg, Launch.state, Cpu.reset, Sched.reset, Dots.reset]
  case plain =>
    intro l h1 h2
    refine ⟨l.state.setPc (word (l.state.byteAt 0x00 0xFFFD) (l.state.byteAt 0x00 0xFFFC)), ?_, rfl, rfl, rfl, rfl,
      word_toNat _ _⟩
    rw [construct_eq, busLoad_plain h1, readThen_ok, busLoad_plain h2, readThen_ok]
  case faults =>
    intro l f
    exact ⟨fun h => by rw [construct_eq, h, readThen_error],
      fun lb s hl h => by rw [construct_eq, hl, readThen_ok, h, readThen_error]⟩

/-! ### The control registers -/

/-- A store the bus lets through to the DMA-enable register is the DMA run (20 R75). -/
theorem busStore_dmaEnable {s : State} {b : Byte} {o : Word} {w : Window} (hw : s.window b o = some w)
    (hk : w.kind = .dmaEnable) (hp : w.writable = true) (v : Byte) : busStore b o v s = runDma v s := by
  simp only [busStore, hw, hp, if_true, hk]

/-- A store the bus lets through to a register of enable bits writes the three flags (48 R339). -/
theorem busStore_enables {s : State} {b : Byte} {o : Word} {w : Window} {nmi hv hdma : Byte}
    (hw : s.window b o = some w) (hp : w.writable = true) (hk : w.kind = .enables nmi hv hdma) (v : Byte) :
    busStore b o v s = .ok (storeEnables nmi hv hdma v s) := by
  simp only [busStore, hw, hp, if_true, hk]

theorem enableBit_absent {mask : Byte} (h : mask = 0) (v : Byte) (old : Bool) : enableBit mask v old = old := if_pos h

theorem enableBit_present {mask : Byte} (h : mask ≠ 0) (v : Byte) (old : Bool) :
    enableBit mask v old = true ↔ v &&& mask ≠ 0 := by rw [enableBit, if_neg h, decide_eq_true_eq]

/-- Settles O19: the first register's store is `runDma`, the second's `storeEnables`. -/
theorem controlRegistersActInsideTheStore : Obligations.ControlRegistersActInsideTheStore := by
  constructor
  · rintro s u b o v w r hw hk hp rfl
    have run := busStore_dmaEnable hw hk hp v
    refine ⟨run, fun hu => ?_⟩
    have ht : busStore b o v s = .ok (u.stealCycles (Config.freeDma s v).cycles) :=
      run.trans (writeThen_eq_ok.mpr ⟨u, hu, rfl⟩)
    have touched := busStore_touched ht
    exact ⟨_, ht, touched.cpu, rfl, rfl, rfl, touched.clock⟩
  · intro s b o v w nmi hv hdma hw hp hk
    exact ⟨_, busStore_enables hw hp hk v, rfl, (enableBit_absent · v _), (enableBit_present · v _),
      (enableBit_absent · v _), (enableBit_present · v _), (enableBit_absent · v _), (enableBit_present · v _)⟩

end Sys2Proof.Machine
end

section
/-! PROOFS. One dot (49 R361), the tile list of a line (49 R370 to R377) and the bitplanes (49 R387). -/

namespace Sys2Proof.Machine

/-! ### One dot -/

/-- The state in which the pixel of a dot is taken: at the start of a visible line its list is rebuilt (49 R361). -/
def dotStart (s : State) : State :=
  if s.dots.h = 0 ∧ s.dots.v < s.cfg.geometry.visibleH then rebuild s.dots.v s else s

theorem dotStart_kept (s : State) : DotKept s (dotStart s) := by
  unfold dotStart
  split
  · exact rebuild_kept _ s
  · exact DotKept.refl s

theorem dotStart_frame (s : State) : (dotStart s).dots.frame = s.dots.frame := by unfold dotStart; split <;> rfl

theorem dotWork_visible {s : State}
    (h : s.dots.h < s.cfg.geometry.visibleW ∧ s.dots.v < s.cfg.geometry.visibleH) :
    dotWork s = readThen (pixel s.dots.h s.dots.v (dotStart s)) fun c u => .ok (u.setPixel s.dots.v s.dots.h c) := by
  simp only [dotWork, if_pos h]
  rfl

theorem dotWork_blank {s : State}
    (h : ¬ (s.dots.h < s.cfg.geometry.visibleW ∧ s.dots.v < s.cfg.geometry.visibleH)) :
    dotWork s = .ok (dotStart s) := by
  simp only [dotWork, if_neg h]
  rfl

theorem ensureTiles_frame (l : Nat) (s : State) : (ensureTiles l s).dots.frame = s.dots.frame := by
  unfold ensureTiles; split <;> rfl

/-- Neither overflow condition is cleared (10 R46). -/
structure OverflowsKept (s t : State) : Prop where
  range : s.dots.rangeOver = true → t.dots.rangeOver = true
  time  : s.dots.timeOver = true → t.dots.timeOver = true

theorem OverflowsKept.refl (s : State) : OverflowsKept s s := ⟨id, id⟩

theorem OverflowsKept.trans {s t u : State} (h : OverflowsKept s t) (k : OverflowsKept t u) : OverflowsKept s u :=
  ⟨k.range ∘ h.range, k.time ∘ h.time⟩

theorem rebuild_overflows (l : Nat) (s : State) : OverflowsKept s (rebuild l s) :=
  ⟨fun h => by simp [rebuild, h], fun h => by simp [rebuild, h]⟩

theorem dotStart_overflows (s : State) : OverflowsKept s (dotStart s) := by
  unfold dotStart
  split
  · exact rebuild_overflows _ s
  · exact OverflowsKept.refl s

theorem ensureTiles_overflows (l : Nat) (s : State) : OverflowsKept s (ensureTiles l s) := by
  unfold ensureTiles
  split
  · exact OverflowsKept.refl s
  · exact rebuild_overflows l s

theorem dotWork_overflows {s t : State} (h : dotWork s = .ok t) : OverflowsKept s t := by
  by_cases hv : s.dots.h < s.cfg.geometry.visibleW ∧ s.dots.v < s.cfg.geometry.visibleH
  · rw [dotWork_visible hv] at h
    obtain ⟨c, u, hu, hk⟩ := readThen_eq_ok.mp h
    cases hk
    rw [pixel_state hu]
    have pixels := (dotStart_overflows s).trans (ensureTiles_overflows s.dots.v _)
    exact ⟨pixels.range, pixels.time⟩
  · rw [dotWork_blank hv] at h
    cases h
    exact dotStart_overflows s

/-- Where the pipeline alone acted, the state is the old one with its fields. -/
theorem DotsOnly.eq {s t : State} (h : DotsOnly s t) : t = { s with dots := t.dots } := by
  obtain ⟨h1, h2, h3, h4, h5, h6, h7⟩ := h
  cases t
  simp_all

/-- Settles O53: `ppuAdvance_keeps` says what every dot does, `dotWork_visible` and `dotWork_blank` what it writes. -/
theorem oneDot : Obligations.OneDot := by
  rintro s r h v rfl rfl hr
  have hr : r = dotStart s := hr
  subst hr
  refine ⟨?every, ?visible, ?blank⟩
  case every =>
    intro t ev ha
    obtain ⟨only, hh, hv, ht, -, hc, hb, hvb⟩ := ppuAdvance_keeps ha
    obtain ⟨u, hu, rfl, -⟩ := ppuAdvance_eq_ok.mp ha
    have overflows := dotWork_overflows hu
    exact ⟨Prod.ext hh hv, hc, by rw [hb, decide_eq_true_eq], by rw [hvb, decide_eq_true_eq], only.eq, overflows.range,
      overflows.time, ht⟩
  case visible =>
    intro hw hv
    have work := dotWork_visible ⟨hw, hv⟩
    refine ⟨fun f hf => ?_, fun c u hu => ?_⟩
    · rw [ppuAdvance, work, hf, readThen_error, writeThen_error]
    · have tiles := pixel_state hu
      have cfg : u.cfg = s.cfg := by rw [tiles, (ensureTiles_kept _ _).cfg, (dotStart_kept s).cfg]
      have frame : u.dots.frame = s.dots.frame := by rw [tiles, ensureTiles_frame, dotStart_frame]
      have key : (dotMove (u.setPixel s.dots.v s.dots.h c)).dots.frame =
          cellPut (s.dots.v * s.cfg.geometry.visibleW + s.dots.h) c s.dots.frame := by rw [← cfg, ← frame]; rfl
      refine ⟨_, dotMove (u.setPixel s.dots.v s.dots.h c), ppuAdvance_eq_ok.mpr ⟨_, ?_, rfl, rfl⟩, ?_, ?_, rfl, ?_,
        rfl, rfl⟩
      · rw [work, hu, readThen_ok]
      · rw [key, cellFind?_cellPut_same]
      · intro k hk
        rw [key, cellFind?_cellPut_other _ _ hk]
      · exact tiles ▸ ensureTiles_line s.dots.v (dotStart s)
  case blank =>
    intro hn
    exact ⟨_, dotMove (dotStart s), ppuAdvance_eq_ok.mpr ⟨_, dotWork_blank hn, rfl, rfl⟩, rfl⟩

/-! ### The selection and the emission -/

/-- The selection loop takes the first 32 that qualify, and the 33rd sets the condition (49 R371). -/
theorem scan_eq (s : State) (line : Nat) (is sel : List (Fin 128)) (ovf : Bool) (hs : sel.length ≤ 32) :
    s.scan line is sel ovf =
      ((sel ++ is.filter fun i => s.qualifies line (s.pic.oam.get i)).take 32,
        ovf || decide (sel.length + (is.filter fun i => s.qualifies line (s.pic.oam.get i)).length > 32)) := by
  induction is generalizing sel with
  | nil => simp [State.scan, List.take_of_length_le hs, hs]
  | cons i is ih =>
    rw [State.scan, List.filter_cons]
    split
    · split
      · rename_i hfull
        rw [List.take_append_of_le_length (by omega), List.take_of_length_le hs]
        simp [hfull]
      · rename_i hfull
        rw [ih _ (by simp; omega)]
        simp [Nat.add_assoc, Nat.add_comm 1]
    · exact ih sel hs

/-- The inner emission loop appends a sprite's descriptors up to 34 and stops at the 35th (49 R376). -/
theorem emitSprite_eq (ds out : List Tile) (ovf : Bool) (ho : out.length ≤ 34) :
    emitSprite ds out ovf =
      ((out ++ ds).take 34, ovf || decide (out.length + ds.length > 34), decide (out.length + ds.length > 34)) := by
  induction ds generalizing out with
  | nil => simp [emitSprite, List.take_of_length_le ho, ho]
  | cons d ds ih =>
    rw [emitSprite]
    split
    · rename_i hfull
      rw [List.take_append_of_le_length (by omega), List.take_of_length_le ho]
      simp [hfull]
    · rename_i hfull
      rw [ih _ (by simp; omega)]
      simp [Nat.add_assoc, Nat.add_comm 1]

/-- The outer emission loop is the inner one over all descriptors of the sprites (49 R376). -/
theorem emit_eq (s : State) (line : Nat) (is : List (Fin 128)) (out : List Tile) (ovf : Bool)
    (ho : out.length ≤ 34) :
    s.emit line is out ovf =
      ((out ++ is.flatMap (s.spriteTiles line)).take 34,
        ovf || decide (out.length + (is.flatMap (s.spriteTiles line)).length > 34)) := by
  induction is generalizing out ovf with
  | nil => simp [State.emit, List.take_of_length_le ho, ho]
  | cons i is ih =>
    rw [State.emit, emitSprite_eq _ _ _ ho, List.flatMap_cons]
    by_cases hover : out.length + (s.spriteTiles line i).length > 34
    · have cut : (out ++ (s.spriteTiles line i ++ is.flatMap (s.spriteTiles line))).take 34 =
          (out ++ s.spriteTiles line i).take 34 := by
        rw [← List.append_assoc, List.take_append_of_le_length (by rw [List.length_append]; omega)]
      have hall : out.length + (s.spriteTiles line i ++ is.flatMap (s.spriteTiles line)).length > 34 := by
        rw [List.length_append]; omega
      simp only [cut, decide_eq_true hover, decide_eq_true hall]
    · have hall : (out ++ s.spriteTiles line i).length ≤ 34 := by rw [List.length_append]; omega
      simp only [decide_eq_false hover, Bool.or_false]
      rw [List.take_of_length_le hall, ih _ _ hall]
      simp only [List.length_append, List.append_assoc, Nat.add_assoc]

/-- The whole selection of a line. -/
theorem scan_line (s : State) (line : Nat) (ovf : Bool) :
    s.scan line ((List.range 128).map s.scanIndex) [] ovf = (s.selected line, ovf || s.selectOverflow line) := by
  rw [scan_eq _ _ _ _ _ (by simp)]
  simp only [List.nil_append, List.length_nil, Nat.zero_add]
  rfl

/-- The whole emission of a line. -/
theorem emit_line (s : State) (line : Nat) (ovf : Bool) :
    s.emit line (s.selected line).reverse [] ovf =
      ((s.allTiles line).take tileCap, ovf || decide ((s.allTiles line).length > tileCap)) := by
  rw [emit_eq _ _ _ _ _ (by simp)]
  simp only [List.nil_append, List.length_nil, Nat.zero_add]
  rfl

/-! ### The tests and the descriptors over numbers -/

theorem spriteSize_of_sizeIs {s : State} {e : OamEntry} {w ht : Nat} (h : s.SizeIs e w ht) :
    s.spriteSize e = ⟨w, ht⟩ := by
  obtain ⟨row, hrow, hsmall, hlarge⟩ := h
  have hget : s.cfg.objSizeTable.get s.pic.obj.sizeSel.toFin = row := by
    rw [Vector.get_eq_getElem]
    exact (Vector.getElem?_eq_some_iff.mp hrow).2
  cases he : e.size
  · obtain ⟨rfl, rfl⟩ := hsmall he
    simp [State.spriteSize, hget, he]
  · obtain ⟨rfl, rfl⟩ := hlarge he
    simp [State.spriteSize, hget, he]

theorem spriteX_of_xIs {e : OamEntry} {x : Int} (h : XIs e x) : spriteX e = x := by
  rcases h with ⟨he, rfl⟩ | ⟨he, rfl⟩
  · exact if_pos he
  · exact if_neg he

theorem spriteRow_of_rowIs {e : OamEntry} {line dy : Nat} (h : RowIs e line dy) : spriteRow line e = dy := by
  have hy := e.y.isLt
  unfold RowIs at h
  unfold spriteRow
  omega

/-- The descriptor of column `t` (49 R375 to R377). -/
theorem descriptorIs_of_getElem? {s : State} {line w ht dy t : Nat} {x : Int} {i : Fin 128} {d : Tile}
    (hsize : s.SizeIs (s.pic.oam.get i) w ht) (hx : XIs (s.pic.oam.get i) x) (hrow : RowIs (s.pic.oam.get i) line dy)
    (hd : (s.spriteTiles line i)[t]? = some d) : s.DescriptorIs (s.pic.oam.get i) x dy t d := by
  simp only [State.spriteTiles, spriteSize_of_sizeIs hsize, spriteX_of_xIs hx, spriteRow_of_rowIs hrow,
    List.getElem?_map, Option.map_eq_some_iff] at hd
  obtain ⟨k, hk, rfl⟩ := hd
  obtain ⟨-, rfl⟩ := List.getElem?_eq_some_iff.mp hk
  rw [List.getElem_range]
  exact ⟨rfl, rfl, rfl, rfl, rfl⟩

/-- Settles O55: the loops are `scan_line` and `emit_line`, a pixel's list is that of `ensureTiles`. -/
theorem tileListIsTheScanOfItsLine : Obligations.TileListIsTheScanOfItsLine := by
  refine ⟨?loops, fun _ _ => rfl, ?tests, ?descriptors, by decide, ?pixels⟩
  case loops =>
    intro s line sel tiles range time hscan hemit
    rw [scan_line] at hscan
    cases hscan
    rw [emit_line] at hemit
    cases hemit
    exact ⟨rfl, List.length_take_le _ _, List.length_take_le _ _⟩
  case tests =>
    intro s line w ht dy x e hsize hx hrow
    rw [State.qualifies, spriteSize_of_sizeIs hsize, spriteX_of_xIs hx, spriteRow_of_rowIs hrow]
    simp
  case descriptors =>
    intro s line w ht dy x i hsize hx hrow
    refine ⟨?_, fun t d hd => descriptorIs_of_getElem? hsize hx hrow hd⟩
    simp [State.spriteTiles, spriteSize_of_sizeIs hsize]
  case pixels =>
    intro x line s t c h
    obtain rfl := pixel_state h
    exact ⟨ensureTiles_line line s, ensureTiles_same, fun hl => if_neg hl⟩

/-! ### Bitplanes -/

/-- The two bits of a pair of planes, as the bits of their number. -/
theorem pairBits_testBit (s : State) (chr row col k : Nat) {j : Nat} (hj : j < 2) :
    (s.pairBits chr row col k).testBit j =
      (s.vramByte (chr + 16 * k + 2 * row + j)).getLsbD (7 - col) := by
  have bits : ∀ a b : Bool, (a.toNat + 2 * b.toNat).testBit 0 = a ∧ (a.toNat + 2 * b.toNat).testBit 1 = b := by decide
  have two : j = 0 ∨ j = 1 := by omega
  rcases two with rfl | rfl
  · exact (bits _ _).1
  · exact (bits _ _).2

theorem pairBits_lt (s : State) (chr row col k : Nat) : s.pairBits chr row col k < 4 := by
  have bound : ∀ a b : Bool, a.toNat + 2 * b.toNat < 4 := by decide
  exact bound _ _

theorem decodePairs_lt (s : State) (chr row col k : Nat) : s.decodePairs chr row col k < 2 ^ (2 * k) := by
  induction k with
  | zero => exact Nat.one_pos
  | succ k ih =>
    have hp := pairBits_lt s chr row col k
    have hmul := Nat.mul_le_mul_right (2 ^ (2 * k)) (Nat.le_of_lt_succ hp)
    rw [State.decodePairs, show 4 ^ k = 2 ^ (2 * k) from (Nat.pow_mul 2 2 k).symm, Nat.mul_succ, Nat.pow_add]
    omega

/-- Bit j of the number of `k` pairs is that of plane `j % 2` of pair `j / 2`. -/
theorem decodePairs_testBit (s : State) (chr row col : Nat) {k j : Nat} (hj : j < 2 * k) :
    (s.decodePairs chr row col k).testBit j =
      (s.vramByte (chr + 16 * (j / 2) + 2 * row + j % 2)).getLsbD (7 - col) := by
  induction k with
  | zero => omega
  | succ k ih =>
    rw [State.decodePairs, show 4 ^ k = 2 ^ (2 * k) from (Nat.pow_mul 2 2 k).symm, Nat.add_comm, Nat.mul_comm,
      Nat.testBit_two_pow_mul_add _ (decodePairs_lt s chr row col k)]
    split
    · rename_i hlow
      exact ih hlow
    · rw [pairBits_testBit s chr row col k (by omega), show j / 2 = k by omega, show j % 2 = j - 2 * k by omega]

/-- Settles O58: an index of `n` planes is the number of its `n / 2` pairs. -/
theorem bitplanesDecode : Obligations.BitplanesDecode := by
  intro s chr n row col hn _ _
  have pairs : 2 * (n / 2) = n := by omega
  constructor
  · have bound := decodePairs_lt s chr row col (n / 2)
    rwa [pairs] at bound
  · intro j hj
    exact decodePairs_testBit s chr row col (pairs.symm ▸ hj)

end Sys2Proof.Machine
end

section
/-! SUPPORT. What an operation is allowed to change (10 R21, R22, R30, "Flags written" of 41 to 47): a relation that
composes, and one lemma for each update of a register and each shared operation. -/

namespace Sys2Proof.Machine

/-! ### Allowances -/

/-- The register holds the same in both files. -/
def keepsReg (c d : Cpu) : CpuReg → Prop
  | .a => d.a = c.a
  | .x => d.x = c.x
  | .y => d.y = c.y
  | .s => d.s = c.s
  | .d => d.d = c.d
  | .dbr => d.dbr = c.dbr
  | .pbr => d.pbr = c.pbr
  | .pc => d.pc = c.pc
  | .e => d.e = c.e

theorem keepsReg_refl (c : Cpu) (r : CpuReg) : keepsReg c c r := by cases r <;> rfl

theorem keepsReg_trans {c d e : Cpu} {r : CpuReg} (h : keepsReg c d r) (k : keepsReg d e r) : keepsReg c e r := by
  cases r <;> exact k.trans h

/-- A width-sensitive register as a CPU register. -/
def Reg.cpuReg : Reg → CpuReg
  | .a => .a
  | .x => .x
  | .y => .y

/-- What may change: registers, flags, and the high bytes of the width-sensitive registers. -/
structure Allowance where
  regs  : List CpuReg
  flags : List Flag
  high  : Reg → Prop

/-- Nothing outside the allowance changes and, without devices, nothing outside CPU and memory. -/
structure Confined (A : Allowance) (s t : State) : Prop where
  regs    : ∀ r, r ∉ A.regs → keepsReg s.cpu t.cpu r
  flags   : ∀ f, f ∉ A.flags → getFlag t.cpu.p f = getFlag s.cpu.p f
  high    : ∀ r, ¬ A.high r → hi (t.reg r) = hi (s.reg r)
  outside : s.NoDevices → SameSurroundings s t

section

variable {A : Allowance} {s t u : State}

theorem Confined.refl (A : Allowance) (s : State) : Confined A s s :=
  ⟨fun _ _ => keepsReg_refl _ _, fun _ _ => rfl, fun _ _ => rfl, fun _ => SameSurroundings.refl s⟩

theorem Confined.trans (h : Confined A s t) (k : Confined A t u) : Confined A s u where
  regs r hr := keepsReg_trans (h.regs r hr) (k.regs r hr)
  flags f hf := (k.flags f hf).trans (h.flags f hf)
  high r hr := (k.high r hr).trans (h.high r hr)
  outside hd := (h.outside hd).trans (k.outside ((noDevices_congr (h.outside hd).cfg).mpr hd))

/-- An access that leaves the CPU alone is confined to any allowance. -/
theorem confined_of_cpu (hc : t.cpu = s.cpu) (ho : s.NoDevices → SameSurroundings s t) : Confined A s t where
  regs _ _ := hc ▸ keepsReg_refl _ _
  flags _ _ := by rw [hc]
  high r _ := by rw [State.reg_congr hc]
  outside := ho

/-! ### Registers -/

theorem setP_confined {q : Byte} (h : ∀ f, f ∉ A.flags → getFlag q f = getFlag s.cpu.p f) :
    Confined A s (s.setP q) where
  regs r _ := by cases r <;> rfl
  flags := h
  high r _ := by cases r <;> rfl
  outside _ := ⟨rfl, rfl, rfl, rfl, rfl, rfl⟩

theorem setPFlag_confined {f : Flag} (b : Bool) (h : f ∈ A.flags) : Confined A s (s.setPFlag f b) :=
  setP_confined fun _ hg => getFlag_setFlag_other s.cpu.p b fun e => hg (e ▸ h)

/-- The flags `setnz` leaves alone. -/
theorem getFlag_setnz_other {w : Nat} (p : Byte) (v : BitVec w) {f : Flag} (hn : f ≠ .n) (hz : f ≠ .z) :
    getFlag (setnz p v) f = getFlag p f := by rw [getFlag_setnz, if_neg hn, if_neg hz]

theorem setNz_confined {w : Nat} (v : BitVec w) (h : [.n, .z] ⊆ A.flags) : Confined A s (s.setNz v) :=
  setP_confined fun _ hf => getFlag_setnz_other _ v (fun e => hf (h (by simp [e]))) fun e => hf (h (by simp [e]))

theorem keepsReg_setReg (s : State) (r : Reg) (v : Word) {q : CpuReg} (h : q ≠ r.cpuReg) :
    keepsReg s.cpu (s.setReg r v).cpu q := by
  cases r with
  | a => cases q with
    | a => exact absurd rfl h
    | _ => rfl
  | x => cases q with
    | x => exact absurd rfl h
    | _ => rfl
  | y => cases q with
    | y => exact absurd rfl h
    | _ => rfl

/-- All 16 bits of a width-sensitive register. -/
theorem setReg_confined {r : Reg} (v : Word) (h : r.cpuReg ∈ A.regs) (hw : A.high r) : Confined A s (s.setReg r v) where
  regs q hq := keepsReg_setReg s r _ fun e => hq (e ▸ h)
  flags _ _ := by rw [State.setReg_cpu_p]
  high q hq := by
    have hne : q ≠ r := fun e => hq (e ▸ hw)
    rw [State.setReg_reg_ne s r q v hne]
  outside _ := ⟨by simp, by simp, by simp, by simp, by simp, by simp⟩

/-- The low byte alone. -/
theorem setRegLo_confined {r : Reg} (v : Byte) (h : r.cpuReg ∈ A.regs) : Confined A s (s.setRegLo r v) where
  regs q hq := keepsReg_setReg s r _ fun e => hq (e ▸ h)
  flags _ _ := by rw [State.setRegLo_cpu_p]
  high q _ := by
    by_cases e : q = r
    · rw [e, State.setRegLo_reg, hi_setLo]
    · rw [State.setRegLo_reg_ne s r q v e]
  outside _ := ⟨by simp, by simp, by simp, by simp, by simp, by simp⟩

/-- An update of one allowed register other than A, X and Y. -/
theorem confined_of_register {q : CpuReg} (h : q ∈ A.regs) (hr : ∀ r, r ≠ q → keepsReg s.cpu t.cpu r)
    (hp : t.cpu.p = s.cpu.p) (hw : ∀ r : Reg, t.reg r = s.reg r) (ho : SameSurroundings s t) : Confined A s t where
  regs r hn := hr r fun e => hn (e ▸ h)
  flags _ _ := by rw [hp]
  high r _ := by rw [hw]
  outside _ := ho

theorem setS_confined (v : Word) (h : .s ∈ A.regs) : Confined A s (s.setS v) :=
  confined_of_register h (fun r hr => by cases r <;> simp_all [keepsReg]) rfl (State.setS_reg s v)
    ⟨rfl, rfl, rfl, rfl, rfl, rfl⟩

theorem setD_confined (v : Word) (h : .d ∈ A.regs) : Confined A s (s.setD v) :=
  confined_of_register h (fun r hr => by cases r <;> simp_all [keepsReg]) rfl (State.setD_reg s v)
    ⟨rfl, rfl, rfl, rfl, rfl, rfl⟩

theorem setDbr_confined (v : Byte) (h : .dbr ∈ A.regs) : Confined A s (s.setDbr v) :=
  confined_of_register h (fun r hr => by cases r <;> simp_all [keepsReg]) rfl (State.setDbr_reg s v)
    ⟨rfl, rfl, rfl, rfl, rfl, rfl⟩

theorem setPc_confined (v : Word) (h : .pc ∈ A.regs) : Confined A s (s.setPc v) :=
  confined_of_register h (fun r hr => by cases r <;> simp_all [keepsReg]) rfl (State.setPc_reg s v)
    ⟨rfl, rfl, rfl, rfl, rfl, rfl⟩

theorem setE_confined (b : Bool) (h : .e ∈ A.regs) : Confined A s (s.setE b) :=
  confined_of_register h (fun r hr => by cases r <;> simp_all [keepsReg]) rfl (fun r => by cases r <;> rfl)
    ⟨rfl, rfl, rfl, rfl, rfl, rfl⟩

theorem jump_confined (b : Byte) (o : Word) (hb : b = s.cpu.pbr ∨ .pbr ∈ A.regs) (ho : .pc ∈ A.regs) :
    Confined A s (s.jump b o) where
  regs r hr := by cases r with
    | pbr => exact hb.resolve_right hr
    | pc => exact absurd ho hr
    | _ => rfl
  flags _ _ := rfl
  high r _ := by cases r <;> rfl
  outside _ := ⟨rfl, rfl, rfl, rfl, rfl, rfl⟩

/-! ### The bus and the operands -/

theorem busLoad_confined {b : Byte} {o : Word} {v : Byte} (h : busLoad b o s = .ok (v, t)) : Confined A s t :=
  confined_of_cpu (busLoad_loaded h).cpu fun hd => (busLoad_noDevices hd h).1 ▸ SameSurroundings.refl s

theorem storeByte_surroundings (s : State) (b : Byte) (o : Word) (v : Byte) :
    SameSurroundings s (s.storeByte b o v) := ⟨rfl, rfl, rfl, rfl, rfl, rfl⟩

theorem busStore_confined {b : Byte} {o : Word} {v : Byte} (h : busStore b o v s = .ok t) : Confined A s t :=
  confined_of_cpu (busStore_touched h).cpu fun hd => busStore_noDevices hd h ▸ storeByte_surroundings s b o v

theorem busLoadWord_confined {b : Byte} {o v : Word} (h : busLoadWord b o s = .ok (v, t)) : Confined A s t := by
  obtain ⟨l, w, x, hl, hx, -⟩ := busLoadWord_eq_ok.mp h
  exact (busLoad_confined hl).trans (busLoad_confined hx)

theorem busStoreWord_confined {b : Byte} {o v : Word} (h : busStoreWord b o v s = .ok t) : Confined A s t := by
  obtain ⟨w, hw, ht⟩ := busStoreWord_eq_ok.mp h
  exact (busStore_confined hw).trans (busStore_confined ht)

theorem effAddr_confined {am : Variant} {b : Byte} {o : Word} (h : EffAddr am s b o t) : Confined A s t :=
  confined_of_cpu (effAddr_loaded h).cpu fun hd => effAddr_noDevices hd h ▸ SameSurroundings.refl s

theorem loadsByte_confined {am : Variant} {v : Byte} (h : LoadsByte am s v t) : Confined A s t := by
  rcases h with ⟨-, rfl⟩ | ⟨b, o, w, ha, hl⟩
  · exact Confined.refl A _
  · exact (effAddr_confined ha).trans (busLoad_confined hl)

theorem loadsWord_confined {am : Variant} {v : Word} (h : LoadsWord am s v t) : Confined A s t := by
  rcases h with ⟨-, rfl⟩ | ⟨b, o, w, l, x, y, ha, -, hl, hx, -⟩
  · exact Confined.refl A _
  · exact ((effAddr_confined ha).trans (busLoad_confined hl)).trans (busLoad_confined hx)

theorem storesByte_confined {am : Variant} {v : Byte} (h : StoresByte am v s t) : Confined A s t := by
  obtain ⟨b, o, w, ha, hs⟩ := h
  exact (effAddr_confined ha).trans (busStore_confined hs)

theorem storesWord_confined {am : Variant} {v : Word} (h : StoresWord am v s t) : Confined A s t := by
  obtain ⟨b, o, w, ha, -, hs⟩ := h
  exact (effAddr_confined ha).trans (busStoreWord_confined (putsWord_iff.mp hs))

theorem modifiesByte_confined {am : Variant} {v r : Byte} (h : ModifiesByte am s v r u t) : Confined A s t := by
  obtain ⟨b, o, w, ha, hl, hs⟩ := h
  exact ((effAddr_confined ha).trans (busLoad_confined hl)).trans (busStore_confined hs)

theorem modifiesWord_confined {am : Variant} {v r : Word} (h : ModifiesWord am s v r u t) : Confined A s t := by
  obtain ⟨b, o, w, l, x, y, ha, -, hl, hx, -, hs⟩ := h
  exact (((effAddr_confined ha).trans (busLoad_confined hl)).trans (busLoad_confined hx)).trans
    (busStoreWord_confined (putsWord_iff.mp hs))

/-! ### The stack and the interrupt -/

theorem pushb_confined {v : Byte} (hs : .s ∈ A.regs) (h : pushb v s = .ok t) : Confined A s t := by
  obtain ⟨w, hw, rfl⟩ := pushb_eq_ok.mp h
  exact (busStore_confined hw).trans (setS_confined _ hs)

theorem pushw_confined {v : Word} (hs : .s ∈ A.regs) (h : pushw v s = .ok t) : Confined A s t := by
  obtain ⟨w, hw, ht⟩ := pushw_eq_ok.mp h
  exact (pushb_confined hs hw).trans (pushb_confined hs ht)

theorem popb_confined {v : Byte} (hs : .s ∈ A.regs) (h : popb s = .ok (v, t)) : Confined A s t :=
  (setS_confined _ hs).trans (busLoad_confined h)

theorem popw_confined {v : Word} (hs : .s ∈ A.regs) (h : popw s = .ok (v, t)) : Confined A s t := by
  obtain ⟨l, w, x, hl, hx, -⟩ := popw_eq_ok.mp h
  exact (popb_confined hs hl).trans (popb_confined hs hx)

theorem pushReturn_confined {ra : Word} (hs : .s ∈ A.regs) (h : pushReturn ra s = .ok t) : Confined A s t := by
  unfold pushReturn at h
  split at h
  · obtain ⟨w, hw, ht⟩ := writeThen_eq_ok.mp h
    exact (pushw_confined hs hw).trans (pushb_confined hs ht)
  · obtain ⟨w, hw, ht⟩ := writeThen_eq_ok.mp h
    exact (pushb_confined hs hw).trans (pushw_confined hs ht)

theorem popReturn_confined {x : Byte × Word} (hs : .s ∈ A.regs) (h : popReturn s = .ok (x, t)) : Confined A s t := by
  unfold popReturn at h
  split at h
  · obtain ⟨b, w, hw, h⟩ := readThen_eq_ok.mp h
    obtain ⟨o, y, hy, h⟩ := readThen_eq_ok.mp h
    cases h
    exact (popb_confined hs hw).trans (popw_confined hs hy)
  · obtain ⟨o, w, hw, h⟩ := readThen_eq_ok.mp h
    obtain ⟨b, y, hy, h⟩ := readThen_eq_ok.mp h
    cases h
    exact (popw_confined hs hw).trans (popb_confined hs hy)

theorem pushFrame_confined (hs : .s ∈ A.regs) (h : pushFrame s = .ok t) : Confined A s t := by
  unfold pushFrame at h
  split at h
  · obtain ⟨w, hw, ht⟩ := writeThen_eq_ok.mp h
    exact (pushw_confined hs hw).trans (pushb_confined hs ht)
  · obtain ⟨w, hw, h⟩ := writeThen_eq_ok.mp h
    obtain ⟨x, hx, ht⟩ := writeThen_eq_ok.mp h
    exact ((pushb_confined hs hw).trans (pushw_confined hs hx)).trans (pushb_confined hs ht)

/-- The entry writes S, PC, PBR and the two flags (60 R432). -/
theorem cpuInterrupt_confined (hr : [.s, .pc, .pbr] ⊆ A.regs) (hf : [.i, .d] ⊆ A.flags)
    (h : cpuInterrupt s = .ok t) : Confined A s t := by
  obtain ⟨w, hw, h⟩ := writeThen_eq_ok.mp h
  obtain ⟨v, x, hx, h⟩ := readThen_eq_ok.mp h
  cases h
  have hp : ∀ f, f ∉ A.flags → getFlag (setFlag (setFlag w.cpu.p .i true) .d false) f = getFlag w.cpu.p f := by
    intro f hn
    rw [getFlag_setFlag_other _ _ fun e => hn (hf (by simp [e])),
      getFlag_setFlag_other _ _ fun e => hn (hf (by simp [e]))]
  have hpc : CpuReg.pc ∈ A.regs := hr (by simp)
  exact ((((pushFrame_confined (hr (by simp)) hw).trans (setP_confined hp)).trans
    (jump_confined _ _ (.inr (hr (by simp))) hpc)).trans (busLoadWord_confined hx)).trans (setPc_confined v hpc)

/-- The return writes S, P, PC and PBR (47 R312). -/
theorem returnFromInterrupt_confined (hr : [.s, .pc, .pbr] ⊆ A.regs) (hf : ∀ f, f ∈ A.flags)
    (h : returnFromInterrupt s = .ok t) : Confined A s t := by
  obtain ⟨p, w, hw, h⟩ := readThen_eq_ok.mp h
  obtain ⟨pc, x, hx, h⟩ := readThen_eq_ok.mp h
  have hs : CpuReg.s ∈ A.regs := hr (by simp)
  have hpc : CpuReg.pc ∈ A.regs := hr (by simp)
  have before := (((popb_confined hs hw).trans (setP_confined fun f hn => absurd (hf f) hn)).trans
    (popw_confined hs hx)).trans (setPc_confined pc hpc)
  simp only at h
  split at h
  · cases h
    exact before
  · obtain ⟨b, y, hy, h⟩ := readThen_eq_ok.mp h
    cases h
    exact (before.trans (popb_confined hs hy)).trans (jump_confined b pc (.inr (hr (by simp))) hpc)

/-! ### Flag computations -/

/-- A flag computation writes these flags and no other. -/
def WritesOnly (f : Alu) (fs : List Flag) : Prop :=
  ∀ (w : Nat) (p : Byte) (a v : BitVec w) (g : Flag), g ∉ fs → getFlag (f w p a v).2 g = getFlag p g

/-- A flag computation hands the register back. -/
def KeepsRegister (f : Alu) : Prop := ∀ (w : Nat) (p : Byte) (a v : BitVec w), (f w p a v).1 = a

theorem WritesOnly.mono {f : Alu} {fs gs : List Flag} (h : WritesOnly f fs) (hs : fs ⊆ gs) : WritesOnly f gs :=
  fun w p a v g hg => h w p a v g fun k => hg (hs k)

/-- N and Z from a result. -/
theorem writesOnly_setnz {f : Alu} {r : (w : Nat) → Byte → BitVec w → BitVec w → BitVec w}
    (h : ∀ w p a v, (f w p a v).2 = setnz p (r w p a v)) : WritesOnly f [.n, .z] := by
  intro w p a v g hg
  rw [h, getFlag_setnz_other] <;> exact fun e => hg (by simp [e])

/-- The carry, then N and Z from a result. -/
theorem writesOnly_setnz_c {f : Alu} {r : (w : Nat) → Byte → BitVec w → BitVec w → BitVec w}
    {c : (w : Nat) → Byte → BitVec w → BitVec w → Bool}
    (h : ∀ w p a v, (f w p a v).2 = setnz (setFlag p .c (c w p a v)) (r w p a v)) : WritesOnly f [.n, .z, .c] := by
  intro w p a v g hg
  rw [h, getFlag_setnz_other, getFlag_setFlag_other] <;> exact fun e => hg (by simp [e])

/-- Z alone. -/
theorem writesOnly_setZ {f : Alu} {z : (w : Nat) → Byte → BitVec w → BitVec w → Bool}
    (h : ∀ w p a v, (f w p a v).2 = setFlag p .z (z w p a v)) : WritesOnly f [.z] := by
  intro w p a v g hg
  rw [h, getFlag_setFlag_other]
  exact fun e => hg (by simp [e])

theorem loadAlu_writesOnly : WritesOnly loadAlu [.n, .z] := writesOnly_setnz fun _ _ _ _ => rfl
theorem andAlu_writesOnly : WritesOnly andAlu [.n, .z] := writesOnly_setnz fun _ _ _ _ => rfl
theorem oraAlu_writesOnly : WritesOnly oraAlu [.n, .z] := writesOnly_setnz fun _ _ _ _ => rfl
theorem eorAlu_writesOnly : WritesOnly eorAlu [.n, .z] := writesOnly_setnz fun _ _ _ _ => rfl
theorem incAlu_writesOnly : WritesOnly incAlu [.n, .z] := writesOnly_setnz fun _ _ _ _ => rfl
theorem decAlu_writesOnly : WritesOnly decAlu [.n, .z] := writesOnly_setnz fun _ _ _ _ => rfl
theorem cmpAlu_writesOnly : WritesOnly cmpAlu [.n, .z, .c] := writesOnly_setnz_c fun _ _ _ _ => rfl
theorem aslAlu_writesOnly : WritesOnly aslAlu [.n, .z, .c] := writesOnly_setnz_c fun _ _ _ _ => rfl
theorem lsrAlu_writesOnly : WritesOnly lsrAlu [.n, .z, .c] := writesOnly_setnz_c fun _ _ _ _ => rfl
theorem rolAlu_writesOnly : WritesOnly rolAlu [.n, .z, .c] := writesOnly_setnz_c fun _ _ _ _ => rfl
theorem rorAlu_writesOnly : WritesOnly rorAlu [.n, .z, .c] := writesOnly_setnz_c fun _ _ _ _ => rfl
theorem bitImmAlu_writesOnly : WritesOnly bitImmAlu [.z] := writesOnly_setZ fun _ _ _ _ => rfl
theorem tsbAlu_writesOnly : WritesOnly tsbAlu [.z] := writesOnly_setZ fun _ _ _ _ => rfl
theorem trbAlu_writesOnly : WritesOnly trbAlu [.z] := writesOnly_setZ fun _ _ _ _ => rfl

theorem bitAlu_writesOnly : WritesOnly bitAlu [.n, .v, .z] := by
  intro w p a v g hg
  rw [bitAlu, getFlag_setFlag_other, getFlag_setFlag_other, getFlag_setFlag_other] <;>
    exact fun e => hg (by simp [e])

theorem adcAlu_writesOnly : WritesOnly adcAlu [.n, .v, .z, .c] := by
  intro w p a v g hg
  simp only [adcAlu]
  rw [getFlag_setnz_other, getFlag_setFlag_other, getFlag_setFlag_other] <;> exact fun e => hg (by simp [e])

theorem sbcAlu_writesOnly : WritesOnly sbcAlu [.n, .v, .z, .c] := fun w p a v => adcAlu_writesOnly w p a (~~~v)

theorem cmpAlu_keepsRegister : KeepsRegister cmpAlu := fun _ _ _ _ => rfl
theorem bitAlu_keepsRegister : KeepsRegister bitAlu := fun _ _ _ _ => rfl
theorem bitImmAlu_keepsRegister : KeepsRegister bitImmAlu := fun _ _ _ _ => rfl

/-! ### The shapes -/

theorem setReg_self (s : State) (r : Reg) : s.setReg r (s.reg r) = s := by cases r <;> rfl

theorem setRegLo_self (s : State) (r : Reg) : s.setRegLo r (lo (s.reg r)) = s := by
  rw [State.setRegLo, setLo, word_hi_lo, setReg_self]

theorem put8_confined {r : Reg} {o : Byte × Byte} (hr : r.cpuReg ∈ A.regs)
    (hf : ∀ f, f ∉ A.flags → getFlag o.2 f = getFlag s.cpu.p f) : Confined A s (put8 r o s) :=
  (setRegLo_confined o.1 hr).trans (setP_confined (by simpa using hf))

theorem put16_confined {r : Reg} {o : Word × Byte} (hr : r.cpuReg ∈ A.regs) (hw : A.high r)
    (hf : ∀ f, f ∉ A.flags → getFlag o.2 f = getFlag s.cpu.p f) : Confined A s (put16 r o s) :=
  (setReg_confined o.1 hr hw).trans (setP_confined (by simpa using hf))

/-- An operand read into its register, whose high byte may change where the register is wide. -/
theorem regOperand_confined {f : Alu} {fs : List Flag} {r : Reg} {am : Variant} (hr : r.cpuReg ∈ A.regs)
    (hf : WritesOnly f fs) (hs : fs ⊆ A.flags) (hw : s.narrow r = false → A.high r)
    (h : regOperand f r am s = .ok t) : Confined A s t := by
  rcases regOperand_cases h with ⟨-, v, w, hl, rfl⟩ | ⟨hn, v, w, hl, rfl⟩
  · have hc := (loadsByte_loaded hl).cpu
    exact (loadsByte_confined hl).trans (put8_confined hr (hc.symm ▸ hf.mono hs 8 _ _ _))
  · have hc := (loadsWord_loaded hl).cpu
    exact (loadsWord_confined hl).trans (put16_confined hr (hw hn) (hc.symm ▸ hf.mono hs 16 _ _ _))

/-- An operand compared with its register, which is handed back. -/
theorem regCompare_confined {f : Alu} {fs : List Flag} {r : Reg} {am : Variant} (hk : KeepsRegister f)
    (hf : WritesOnly f fs) (hs : fs ⊆ A.flags) (h : regOperand f r am s = .ok t) : Confined A s t := by
  rcases regOperand_cases h with ⟨-, v, w, hl, rfl⟩ | ⟨-, v, w, hl, rfl⟩
  · have hc := (loadsByte_loaded hl).cpu
    rw [put8, hk, ← State.reg_congr hc, setRegLo_self]
    exact (loadsByte_confined hl).trans (setP_confined (hc.symm ▸ hf.mono hs 8 _ _ _))
  · have hc := (loadsWord_loaded hl).cpu
    rw [put16, hk, ← State.reg_congr hc, setReg_self]
    exact (loadsWord_confined hl).trans (setP_confined (hc.symm ▸ hf.mono hs 16 _ _ _))

theorem regStore_confined {r : Reg} {am : Variant} (h : regStore r am s = .ok t) : Confined A s t := by
  cases hn : s.narrow r
  · rw [regStore_word hn] at h; exact storesWord_confined (storew_eq_ok.mp h)
  · rw [regStore_byte hn] at h; exact storesByte_confined (storeb_eq_ok.mp h)

theorem stz_confined {am : Variant} (h : stz am s = .ok t) : Confined A s t := by
  unfold stz at h
  split at h
  · exact storesByte_confined (storeb_eq_ok.mp h)
  · exact storesWord_confined (storew_eq_ok.mp h)

theorem readModifyWrite_confined {f : Alu} {fs : List Flag} {am : Variant} (hf : WritesOnly f fs) (hs : fs ⊆ A.flags)
    (h : readModifyWrite f am s = .ok t) : Confined A s t := by
  rcases readModifyWrite_cases h with ⟨-, v, w, u, hm, rfl⟩ | ⟨-, v, w, u, hm, rfl⟩
  · have hc := (modifiesByte_touched hm).cpu
    exact (modifiesByte_confined hm).trans (setP_confined (hc.symm ▸ hf.mono hs 8 _ _ _))
  · have hc := (modifiesWord_touched hm).cpu
    exact (modifiesWord_confined hm).trans (setP_confined (hc.symm ▸ hf.mono hs 16 _ _ _))

theorem regAlone_confined {f : Alu} {fs : List Flag} {r : Reg} (hr : r.cpuReg ∈ A.regs) (hf : WritesOnly f fs)
    (hs : fs ⊆ A.flags) (hw : s.narrow r = false → A.high r) : Confined A s (regAlone f r s) := by
  unfold regAlone
  split
  · exact put8_confined hr (hf.mono hs 8 _ _ _)
  · rename_i hn
    exact put16_confined hr (hw (by simpa using hn)) (hf.mono hs 16 _ _ _)

theorem transfer_confined {r : Reg} (v : Word) (hr : r.cpuReg ∈ A.regs) (hs : [.n, .z] ⊆ A.flags)
    (hw : s.narrow r = false → A.high r) : Confined A s (transfer r v s) := by
  unfold transfer
  split
  · exact put8_confined hr (loadAlu_writesOnly.mono hs 8 _ _ _)
  · rename_i hn
    exact put16_confined hr (hw (by simpa using hn)) (loadAlu_writesOnly.mono hs 16 _ _ _)

theorem pushReg_confined {r : Reg} (hs : .s ∈ A.regs) (h : pushReg r s = .ok t) : Confined A s t := by
  unfold pushReg at h
  split at h
  · exact pushb_confined hs h
  · exact pushw_confined hs h

theorem pullReg_confined {r : Reg} (hs : .s ∈ A.regs) (hr : r.cpuReg ∈ A.regs) (hf : [.n, .z] ⊆ A.flags)
    (hw : s.narrow r = false → A.high r) (h : pullReg r s = .ok t) : Confined A s t := by
  unfold pullReg at h
  split at h
  · obtain ⟨v, w, hp, h⟩ := readThen_eq_ok.mp h
    cases h
    exact (popb_confined hs hp).trans (put8_confined hr (loadAlu_writesOnly.mono hf 8 _ _ _))
  · rename_i hn
    obtain ⟨v, w, hp, h⟩ := readThen_eq_ok.mp h
    cases h
    exact (popw_confined hs hp).trans (put16_confined hr (hw (by simpa using hn)) (loadAlu_writesOnly.mono hf 16 _ _ _))

/-- The target of a branch lies in the program bank (46 R271). -/
theorem branch_confined {c : Bool} {k : Byte} (hpc : .pc ∈ A.regs) (h : branch c k s = .ok t) : Confined A s t := by
  cases h
  split
  · exact jump_confined _ _ (.inl rfl) hpc
  · exact Confined.refl A s

end

end Sys2Proof.Machine
end

section
/-! PROOFS. Every instruction stays inside the registers and flags it names (41 to 47). -/

namespace Sys2Proof.Machine

/-- The mnemonics that write all 16 bits of A in every mode (44 R229, R231, R232). -/
def wideTransfers : List Mnemonic := [.TSC, .TDC, .XBA]

/-- What an instruction may change: the registers and flags it names, and the high byte of a register that is wide or
that it writes in 16 bits always. -/
def instrAllowance (i : Instr) (s : State) : Allowance where
  regs := i.writes
  flags := i.writesFlags
  high r := s.narrow r = false ∨ r = .a ∧ i.mnemonic ∈ wideTransfers

theorem writes_of_not_modify {i : Instr} (h : i.mnemonic.isModify = false) : i.writes = i.mnemonic.writes := by
  simp [Instr.writes, h]

theorem writes_of_implied {i : Instr} (h : i.variant? = none) : i.writes = i.mnemonic.writes := by
  simp [Instr.writes, h]

/-- All of P. -/
def allFlags : List Flag := [.n, .v, .m, .x, .d, .i, .z, .c]

theorem mem_allFlags (f : Flag) : f ∈ allFlags := by cases f <;> decide

/-- BIT has two sets of flags, that of the immediate form and that of the others (42 R180). -/
theorem format_of_bit {i : Instr} {am : Variant} (hm : i.mnemonic = .BIT) (hv : i.variant? = some am) :
    i.format = .immM ↔ immediate am = true := by
  cases i <;> cases hm
  case bitImm v => cases v <;> cases hv <;> simp [Instr.format, immediate, Imm.variant]
  all_goals cases hv; simp [Instr.format, immediate]

/-- An instruction over a variant. -/
theorem over_confined {i : Instr} {am : Variant} {s t : State} (hv : i.variant? = some am)
    (h : overVariant i.mnemonic i.opcode am s = some (.ok t)) : Confined (instrAllowance i s) s t := by
  have wide : ∀ r, s.narrow r = false → (instrAllowance i s).high r := fun _ => .inl
  have regs : i.mnemonic.isModify = false → (instrAllowance i s).regs = i.mnemonic.writes := writes_of_not_modify
  have flags : (instrAllowance i s).flags = i.writesFlags := rfl
  unfold Instr.writesFlags at flags
  cases hm : i.mnemonic <;> simp only [hm, overVariant, Option.some.injEq, reduceCtorEq] at h regs flags
  case LDA | LDX | LDY =>
    exact regOperand_confined (by rw [regs rfl]; decide) loadAlu_writesOnly (by simp [flags]) (wide _) h
  case AND =>
    exact regOperand_confined (by rw [regs rfl]; decide) andAlu_writesOnly (by simp [flags]) (wide _) h
  case ORA =>
    exact regOperand_confined (by rw [regs rfl]; decide) oraAlu_writesOnly (by simp [flags]) (wide _) h
  case EOR =>
    exact regOperand_confined (by rw [regs rfl]; decide) eorAlu_writesOnly (by simp [flags]) (wide _) h
  case ADC =>
    unfold adc at h
    split at h
    · cases h
    · exact regOperand_confined (by rw [regs rfl]; decide) adcAlu_writesOnly (by simp [flags]) (wide _) h
  case SBC =>
    unfold sbc at h
    split at h
    · cases h
    · exact regOperand_confined (by rw [regs rfl]; decide) sbcAlu_writesOnly (by simp [flags]) (wide _) h
  case CMP | CPX | CPY =>
    exact regCompare_confined cmpAlu_keepsRegister cmpAlu_writesOnly (by simp [flags]) h
  case BIT =>
    split at h
    · rename_i himm
      exact regCompare_confined bitImmAlu_keepsRegister bitImmAlu_writesOnly
        (by simp [flags, (format_of_bit hm hv).mpr himm]) h
    · rename_i himm
      exact regCompare_confined bitAlu_keepsRegister bitAlu_writesOnly
        (by simp [flags, mt (format_of_bit hm hv).mp himm]) h
  case STA | STX | STY => exact regStore_confined h
  case STZ => exact stz_confined h
  case TSB => exact readModifyWrite_confined tsbAlu_writesOnly (by simp [flags]) h
  case TRB => exact readModifyWrite_confined trbAlu_writesOnly (by simp [flags]) h
  case ASL => exact readModifyWrite_confined aslAlu_writesOnly (by simp [flags]) h
  case LSR => exact readModifyWrite_confined lsrAlu_writesOnly (by simp [flags]) h
  case ROL => exact readModifyWrite_confined rolAlu_writesOnly (by simp [flags]) h
  case ROR => exact readModifyWrite_confined rorAlu_writesOnly (by simp [flags]) h
  case INC => exact readModifyWrite_confined incAlu_writesOnly (by simp [flags]) h
  case DEC => exact readModifyWrite_confined decAlu_writesOnly (by simp [flags]) h

/-- An instruction without an operand. -/
theorem implied_confined {i : Instr} {s t : State} (hv : i.variant? = none)
    (h : implied i.mnemonic s = some (.ok t)) : Confined (instrAllowance i s) s t := by
  have wide : ∀ r, s.narrow r = false → (instrAllowance i s).high r := fun _ => .inl
  have regs : (instrAllowance i s).regs = i.mnemonic.writes := writes_of_implied hv
  have flags : (instrAllowance i s).flags = i.writesFlags := rfl
  unfold Instr.writesFlags at flags
  cases hm : i.mnemonic <;> simp only [hm, implied, Option.some.injEq, reduceCtorEq] at h regs flags
  case TAX | TAY | TXA | TYA | TXY | TYX | TSX =>
    cases h
    exact transfer_confined _ (by rw [regs]; decide) (by simp [flags]) (wide _)
  case TXS | TCS => cases h; exact setS_confined _ (by rw [regs]; decide)
  case TSC | TDC | XBA =>
    cases h
    exact (setReg_confined _ (by rw [regs]; decide) (Or.inr ⟨rfl, by simp [hm, wideTransfers]⟩)).trans
      (setNz_confined _ (by simp [flags]))
  case TCD =>
    cases h
    exact (setD_confined _ (by rw [regs]; decide)).trans
      (setNz_confined _ (by simp [flags]))
  case PHA | PHX | PHY => exact pushReg_confined (by rw [regs]; decide) h
  case PHP | PHB | PHK => exact pushb_confined (by rw [regs]; decide) h
  case PHD => exact pushw_confined (by rw [regs]; decide) h
  case PLA | PLX | PLY =>
    exact pullReg_confined (by rw [regs]; decide) (by rw [regs]; decide) (by simp [flags]) (wide _) h
  case PLP =>
    obtain ⟨v, u, hu, hk⟩ := readThen_eq_ok.mp h
    cases hk
    exact (popb_confined (by rw [regs]; decide) hu).trans
      (setP_confined fun f hf => absurd (flags ▸ mem_allFlags f) hf)
  case PLB =>
    obtain ⟨v, u, hu, hk⟩ := readThen_eq_ok.mp h
    cases hk
    exact ((popb_confined (by rw [regs]; decide) hu).trans (setDbr_confined v (by rw [regs]; decide))).trans
      (setNz_confined v (by simp [flags]))
  case PLD =>
    obtain ⟨v, u, hu, hk⟩ := readThen_eq_ok.mp h
    cases hk
    exact ((popw_confined (by rw [regs]; decide) hu).trans (setD_confined v (by rw [regs]; decide))).trans
      (setNz_confined v (by simp [flags]))
  case RTL =>
    obtain ⟨x, u, hu, hk⟩ := readThen_eq_ok.mp h
    cases hk
    exact (popReturn_confined (by rw [regs]; decide) hu).trans
      (jump_confined _ _ (.inr (by rw [regs]; decide)) (by rw [regs]; decide))
  case RTI =>
    exact returnFromInterrupt_confined (by rw [regs]; decide) (fun f => flags ▸ mem_allFlags f) h
  case CLC | SEC | CLI | SEI | CLD | SED | CLV =>
    cases h
    exact setPFlag_confined _ (by simp [flags])
  case XCE =>
    cases h
    have exchanged := (setPFlag_confined (s := s) s.cpu.e
      (show Flag.c ∈ (instrAllowance i s).flags by simp [flags])).trans
      (setE_confined (getFlag s.cpu.p .c) (by rw [regs]; decide))
    split
    · exact exchanged.trans (setS_confined _ (by rw [regs]; decide))
    · exact exchanged
  case NOP => cases h; exact Confined.refl _ s
  case INX | INY | INC =>
    cases h
    exact regAlone_confined (by rw [regs]; decide) incAlu_writesOnly (by simp [flags]) (wide _)
  case DEX | DEY | DEC =>
    cases h
    exact regAlone_confined (by rw [regs]; decide) decAlu_writesOnly (by simp [flags]) (wide _)
  case ASL =>
    cases h
    exact regAlone_confined (by rw [regs]; decide) aslAlu_writesOnly (by simp [flags]) (wide _)
  case LSR =>
    cases h
    exact regAlone_confined (by rw [regs]; decide) lsrAlu_writesOnly (by simp [flags]) (wide _)
  case ROL =>
    cases h
    exact regAlone_confined (by rw [regs]; decide) rolAlu_writesOnly (by simp [flags]) (wide _)
  case ROR =>
    cases h
    exact regAlone_confined (by rw [regs]; decide) rorAlu_writesOnly (by simp [flags]) (wide _)

/-- The instructions with a condition are the branches, which name PC. -/
theorem pc_mem_of_condition {i : Instr} {p : Byte} {c : Bool} (h : condition i.mnemonic p = some c) (s : State) :
    .pc ∈ (instrAllowance i s).regs := by
  change .pc ∈ i.writes
  cases hm : i.mnemonic <;> simp [hm, condition] at h <;> simp [Instr.writes, hm, Mnemonic.isModify, Mnemonic.writes]

/-- Every instruction. -/
theorem exec_confined {i : Instr} {s t : State} (h : exec i s = .next t) : Confined (instrAllowance i s) s t := by
  rcases exec_cases i s with ⟨am, r, hv, hm, he⟩ | ⟨r, hv, hm, he⟩ | ⟨k, c, -, hm, he⟩ | ⟨k, rfl⟩ | ⟨k, rfl⟩
    | ⟨b, a, rfl⟩ | ⟨b, a, rfl⟩
  case inl => rw [he, finish_eq_next] at h; rw [h] at hm; exact over_confined hv hm
  case inr.inl => rw [he, finish_eq_next] at h; rw [h] at hm; exact implied_confined hv hm
  case inr.inr.inl => rw [he, finish_eq_next] at h; exact branch_confined (pc_mem_of_condition hm s) h
  case inr.inr.inr.inl =>
    have h := (finish_eq_next (r := rep k s)).mp h
    unfold rep at h
    split at h
    · cases h
    · cases h
      exact setP_confined fun f hf => absurd (mem_allFlags f) hf
  case inr.inr.inr.inr.inl =>
    have h := (finish_eq_next (r := sep k s)).mp h
    unfold sep at h
    split at h
    · cases h
    · cases h
      exact setP_confined fun f hf => absurd (mem_allFlags f) hf
  case inr.inr.inr.inr.inr.inl =>
    have h := (finish_eq_next (r := jml b a s)).mp h
    cases h
    exact jump_confined b a (.inr (.head _)) (.tail _ (.head _))
  case inr.inr.inr.inr.inr.inr =>
    have h := (finish_eq_next (r := jsl b a s)).mp h
    obtain ⟨u, hu, hk⟩ := writeThen_eq_ok.mp h
    cases hk
    exact (pushReturn_confined (.tail _ (.tail _ (.head _))) hu).trans
      (jump_confined b a (.inr (.head _)) (.tail _ (.head _)))

/-- Settles O51: the clock is that of `exec_safe`, the registers, flags and surroundings those of `exec_confined`. -/
theorem registersAndFlagsFrame : Obligations.RegistersAndFlagsFrame := by
  intro i s t h
  have c := exec_confined h
  refine ⟨(exec_safe h).clock, c.regs .a, c.regs .x, c.regs .y, c.regs .s, c.regs .d, c.regs .dbr, c.regs .pbr,
    c.regs .pc, c.regs .e, c.flags, ?_, ?_, c.outside⟩
  · intro hm hi
    refine c.high .a ?_
    rintro (hn | ⟨-, hw⟩)
    · exact Bool.false_ne_true (hn.symm.trans hm)
    · exact hi hw
  · have index : ∀ r : Reg, r ≠ .a → s.narrow r = true → hi (t.reg r) = hi (s.reg r) := by
      intro r hr hx
      refine c.high r ?_
      rintro (hn | ⟨ha, -⟩)
      · exact Bool.false_ne_true (hn.symm.trans hx)
      · exact hr ha
    exact fun hx => ⟨index .x nofun hx, index .y nofun hx⟩

/-! ### A whole step -/

/-- What a step leaves as it is: the run status, the parameters and, without devices, the picture state (10 R36, R37,
R39). -/
structure Lasting (s t : State) : Prop where
  halt : t.halt = s.halt
  cfg  : t.cfg = s.cfg
  pic  : s.NoDevices → t.pic = s.pic

theorem Lasting.trans {s t u : State} (h : Lasting s t) (k : Lasting t u) : Lasting s u :=
  ⟨k.halt.trans h.halt, k.cfg.trans h.cfg,
    fun hd => (k.pic ((noDevices_congr h.cfg).mpr hd)).trans (h.pic hd)⟩

theorem clearDma_lasting (s : State) : Lasting s s.clearDma := ⟨rfl, rfl, fun _ => rfl⟩

theorem inputLatch_lasting (s : State) : Lasting s (inputLatch s) := ⟨rfl, rfl, fun _ => rfl⟩

theorem markIrq_lasting (s : State) : Lasting s s.markIrq := ⟨rfl, rfl, fun _ => rfl⟩

theorem apuDrain_charge_lasting (s : State) (n : Nat) : Lasting s (apuDrain (s.charge n)) := ⟨rfl, rfl, fun _ => rfl⟩

/-- An operation that keeps the clock and is confined to some allowance. -/
theorem Lasting.of_confined {A : Allowance} {s t : State} (h : SameClock s t) (c : Confined A s t) : Lasting s t :=
  ⟨h.halt, h.cfg, fun hd => (c.outside hd).pic⟩

/-- Everything allowed. -/
def Allowance.all : Allowance where
  regs := [.a, .x, .y, .s, .d, .dbr, .pbr, .pc, .e]
  flags := allFlags
  high _ := True

theorem fetchb_confined {A : Allowance} {s t : State} {v : Byte} (hpc : .pc ∈ A.regs) (h : fetchb s = .ok (v, t)) :
    Confined A s t := by
  obtain ⟨u, hu, rfl⟩ := fetchb_eq_ok.mp h
  exact (busLoad_confined hu).trans (setPc_confined _ hpc)

theorem fetchBytes_confined {A : Allowance} {n : Nat} {s t : State} {bs : List Byte} (hpc : .pc ∈ A.regs)
    (h : fetchBytes n s = .ok (bs, t)) : Confined A s t := by
  induction n generalizing s bs with
  | zero => cases h; exact Confined.refl A _
  | succ n ih =>
    obtain ⟨b, u, hu, h⟩ := readThen_eq_ok.mp h
    obtain ⟨cs, w, hw, h⟩ := readThen_eq_ok.mp h
    cases h
    exact (fetchb_confined hpc hu).trans (ih hw)

/-- A fetch moves PC. -/
theorem fetchInstr_confined {A : Allowance} {s u : State} {r : Byte × Instr} (hpc : .pc ∈ A.regs)
    (h : fetchInstr s = .ok (r, u)) : Confined A s u := by
  obtain ⟨op, t, ht, h⟩ := readThen_eq_ok.mp h
  split at h
  · cases h
  · split at h
    · cases h
    · obtain ⟨bs, w, hw, h⟩ := readThen_eq_ok.mp h
      split at h
      · cases h
      · cases h
        exact (fetchb_confined hpc ht).trans (fetchBytes_confined hpc hw)

/-- The picture drain: a dot writes the pipeline's own fields, an interrupt the CPU and memory (48 R332, R334). -/
theorem ppuDrain_lasting {s t : State} (hc : 0 < s.cfg.dotMasterCycles) (h : ppuDrain s = .ok t) : Lasting s t := by
  have dots : ∀ {s u : State} {ev : DotEvents}, ppuAdvance s = .ok (ev, u) → Lasting s (u.payDots ev.cycles) := by
    intro s u ev ha
    obtain ⟨only, -⟩ := ppuAdvance_keeps ha
    exact ⟨only.halt, only.cfg, fun _ => only.pic⟩
  refine ppuDrain_induct (P := Lasting) hc ?idle ?dot ?latch ?deliver h
  case idle => exact fun s _ => ⟨rfl, rfl, fun _ => rfl⟩
  case dot => exact fun s u ev t _ ha _ rest => (dots ha).trans rest
  case latch => exact fun s u ev t _ ha _ _ rest => (dots ha).trans ((inputLatch_lasting _).trans rest)
  case deliver =>
    intro s u ev t _ ha _ _ hi
    have entry : Lasting (inputLatch (u.payDots ev.cycles)).markIrq t :=
      .of_confined (cpuInterrupt_safe hi).clock (cpuInterrupt_confined (A := .all) (by decide) (by decide) hi)
    exact (dots ha).trans (((inputLatch_lasting _).trans (markIrq_lasting _)).trans entry)

/-- A step, part by part. -/
theorem step_lasting {s t : State} (h : step s = .next t) : Lasting s t := by
  obtain ⟨hr, op, i, u, w, hf, he, hw⟩ := step_eq_next h
  have fetched : Lasting s u := (clearDma_lasting s).trans
    (.of_confined (fetchInstr_safe hf).clock (fetchInstr_confined (A := .all) (by decide) hf))
  have ran : Lasting s w := fetched.trans (.of_confined (exec_safe he).clock (exec_confined he))
  have positive := (configOk_pos (ran.cfg ▸ hr.params : configOk w.cfg = true)).2
  exact ran.trans ((apuDrain_charge_lasting w (w.masterCost op)).trans (ppuDrain_lasting positive hw))

/-- Settles O14. -/
theorem stepsKeepParametersAndPicture : Obligations.StepsKeepParametersAndPicture :=
  fun _ _ h => ⟨(step_lasting h).cfg, (step_lasting h).pic⟩

/-! ### The run -/

theorem step_of_halt {s : State} {f : Fault} (h : s.halt = some f) : step s = .fault f := by rw [step, h]

/-- Settles O11: `run` looks at what the step answers, then at the budget (48 R322, 60 R420). -/
theorem runsEndByTrapOrBudget : Obligations.RunsEndByTrapOrBudget := by
  refine ⟨fun _ _ => step_of_halt, ?fatal, ?going, ?budget⟩
  case fatal =>
    intro s f budget n h
    exact ⟨by rw [run, h], step_of_halt rfl⟩
  case going =>
    intro s t h
    have running := (step_eq_next h).1.running
    exact ⟨running, (step_lasting h).halt.trans running⟩
  case budget =>
    intro s t n h
    refine ⟨fun b hb => ?_, fun b hb => ?_, ?_⟩
    · simp [run, h, budgetSpent, hb]
    · simp [run, h, budgetSpent, hb]
    · simp [run, h, budgetSpent]

end Sys2Proof.Machine
end

section
/-! PROOFS. The fetch reads back the encoding (30 R92, R96, R97), and a step runs what it fetched (48 R321). -/

namespace Sys2Proof

/-- The form an opcode byte has on the map builds this instruction from its operand bytes (30 R93, R96). -/
def OpForm.Builds (i : Instr) : OpForm → Prop
  | .none j => j = i ∧ (encode i).tail = []
  | .byte f => ∃ d, f d = i ∧ (encode i).tail = [d]
  | .word f => ∃ a, f a = i ∧ (encode i).tail = [lo a, hi a]
  | .long f => ∃ b a, f b a = i ∧ (encode i).tail = [lo a, hi a, b]
  | .immM f => ∃ v, f v = i ∧ i.format = .immM ∧ i.variant? = some v.variant
  | .immX f => ∃ v, f v = i ∧ i.format = .immX ∧ i.variant? = some v.variant

/-- Every instruction's opcode byte has a cell on the map, and that cell builds the instruction (30 R99): one case for
the instructions without an operand, one for those with one field, one for the immediates, one for a bank and an
offset. -/
theorem opForm_opcode (i : Instr) : ∃ f, opForm i.opcode = some f ∧ f.Builds i := by
  cases i <;> dsimp only [Instr.opcode] <;> refine ⟨_, rfl, ?_⟩ <;> first
    | exact ⟨rfl, rfl⟩
    | exact ⟨_, rfl, rfl⟩
    | exact ⟨_, rfl, rfl, rfl⟩
    | exact ⟨_, _, rfl, rfl⟩

/-- An immediate of the right width is taken back from its bytes (30 R97). -/
theorem takeImm_bytes {narrow : Bool} {v : Imm} (h : immFits narrow (some v.variant) = true) (f : Imm → Instr)
    (rest : List Byte) : takeImm narrow f (v.variant.bytes ++ rest) = some (f v, rest) := by
  cases v with
  | imm8 b =>
    obtain rfl : narrow = true := h
    rfl
  | imm16 w =>
    obtain rfl : narrow = false := by simpa [immFits, Imm.variant] using h
    simp [takeImm, Imm.variant, Variant.bytes]

theorem bytes_length_of_immFits {narrow : Bool} {v : Imm} (h : immFits narrow (some v.variant) = true) :
    v.variant.bytes.length = if narrow then 1 else 2 := by
  cases v with
  | imm8 b =>
    obtain rfl : narrow = true := h
    rfl
  | imm16 w =>
    obtain rfl : narrow = false := by simpa [immFits, Imm.variant] using h
    rfl

theorem encode_tail_of_variant {i : Instr} {am : Variant} (h : i.variant? = some am) : (encode i).tail = am.bytes := by
  simp [encode, h]

/-- The form takes the operand bytes of a well-formed instruction, no more (30 R96, R97, R98). -/
theorem OpForm.Builds.reads {i : Instr} {f : OpForm} {m8 x8 : Bool} (h : f.Builds i) (hw : i.wf m8 x8 = true)
    (rest : List Byte) :
    f.take m8 x8 ((encode i).tail ++ rest) = some (i, rest) ∧ f.operandBytes m8 x8 = (encode i).tail.length := by
  cases f with
  | none j =>
    obtain ⟨rfl, ht⟩ := h
    simp [ht, OpForm.take, OpForm.operandBytes]
  | byte g =>
    obtain ⟨d, rfl, ht⟩ := h
    simp [ht, OpForm.take, OpForm.operandBytes]
  | word g =>
    obtain ⟨a, rfl, ht⟩ := h
    simp [ht, OpForm.take, OpForm.operandBytes]
  | long g =>
    obtain ⟨b, a, rfl, ht⟩ := h
    simp [ht, OpForm.take, OpForm.operandBytes]
  | immM g =>
    obtain ⟨v, rfl, hf, hv⟩ := h
    have fits : immFits m8 (some v.variant) = true := by rw [Instr.wf, hf, hv] at hw; exact hw
    rw [encode_tail_of_variant hv, bytes_length_of_immFits fits]
    exact ⟨takeImm_bytes fits g rest, rfl⟩
  | immX g =>
    obtain ⟨v, rfl, hf, hv⟩ := h
    have fits : immFits x8 (some v.variant) = true := by rw [Instr.wf, hf, hv] at hw; exact hw
    rw [encode_tail_of_variant hv, bytes_length_of_immFits fits]
    exact ⟨takeImm_bytes fits g rest, rfl⟩

/-- Decoding the encoding of a well-formed instruction gives it back (30 R92, R96, R97). -/
theorem decode_encode {i : Instr} {m8 x8 : Bool} (hw : i.wf m8 x8 = true) (rest : List Byte) :
    decode m8 x8 (encode i ++ rest) = .ok (i, rest) := by
  obtain ⟨f, hf, hb⟩ := opForm_opcode i
  have split : encode i ++ rest = i.opcode :: ((encode i).tail ++ rest) := rfl
  simp only [split, decode, hf, (hb.reads hw rest).1]

end Sys2Proof

namespace Sys2Proof.Machine

/-- Where the bytes ahead are a byte recognised as an instruction's opcode and its operand bytes, the fetch reads that
instruction. -/
theorem fetchInstr_of_fetchBytes {i : Instr} {op : Byte} {s u : State} (hw : i.wf s.m8 s.x8 = true)
    (hrow : s.opRow op = some i.opcode)
    (h : fetchBytes (encode i).length s = .ok (op :: (encode i).tail, u)) : fetchInstr s = .ok ((op, i), u) := by
  obtain ⟨f, hf, hb⟩ := opForm_opcode i
  obtain ⟨-, hlen⟩ := hb.reads hw []
  have whole := decode_encode hw []
  rw [List.append_nil] at whole
  have hdec : decode s.m8 s.x8 (i.opcode :: (encode i).tail) = .ok (i, []) := whole
  obtain ⟨b, t, ht, h⟩ := readThen_eq_ok.mp h
  obtain ⟨bs, w, hbs, h⟩ := readThen_eq_ok.mp h
  cases h
  obtain ⟨x, hx, rfl⟩ := fetchb_eq_ok.mp ht
  have cpu := (busLoad_loaded hx).cpu
  have m8 : (x.setPc (x.cpu.pc + 1)).m8 = s.m8 := State.m8_congr (by simp [cpu]) (by simp [cpu])
  have x8 : (x.setPc (x.cpu.pc + 1)).x8 = s.x8 := State.x8_congr (by simp [cpu]) (by simp [cpu])
  have operands : fetchBytes (f.operandBytes s.m8 s.x8) (x.setPc (x.cpu.pc + 1)) = .ok ((encode i).tail, u) :=
    hlen ▸ hbs
  simp only [fetchInstr, ht, readThen_ok, hrow, hf, m8, x8, operands, hdec]

/-- A ready machine runs the instruction fetched. -/
theorem step_of_fetchInstr {i : Instr} {op : Byte} {s u : State} (hr : s.Ready)
    (h : fetchInstr s.clearDma = .ok ((op, i), u)) : step s = afterExec op (exec i u) := by
  rw [step_ready hr, iteration, h]

/-- Bytes that lie in plain memory at consecutive offsets of the program bank are fetched from there. -/
theorem fetchBytes_of_plain {bs : List Byte} {s : State}
    (h : ∀ (k : Nat) (v : Byte), bs[k]? = some v →
      s.PlainRead s.cpu.pbr (s.cpu.pc + BitVec.ofNat 16 k) ∧
        s.byteAt s.cpu.pbr (s.cpu.pc + BitVec.ofNat 16 k) = v) :
    fetchBytes bs.length s = .ok (bs, s.setPc (s.cpu.pc + BitVec.ofNat 16 bs.length)) := by
  have there : ∀ k (hk : k < bs.length), s.PlainRead s.cpu.pbr (s.cpu.pc + BitVec.ofNat 16 k) ∧
      s.byteAt s.cpu.pbr (s.cpu.pc + BitVec.ofNat 16 k) = bs[k] :=
    fun k hk => h k bs[k] (List.getElem?_eq_getElem hk)
  rw [fetchBytes_plain _ _ fun k hk => (there k hk).1]
  congr 2
  refine List.ext_getElem (by simp) fun k _ hk => ?_
  rw [List.getElem_map, List.getElem_range, (there k hk).2]

/-- A byte `OPTABLE` recognises as no row of R100 is an illegal opcode (30 R101). -/
theorem fetchInstr_illegal {op : Byte} {s t : State} (hrow : (s.opRow op).bind opForm = none)
    (h : busLoad s.cpu.pbr s.cpu.pc s = .ok (op, t)) :
    fetchInstr s = .error (.illegalOpcode op s.cpu.pbr s.cpu.pc) := by
  rw [fetchInstr, fetchb_eq_ok.mpr ⟨t, h, rfl⟩, readThen_ok]
  cases hr : s.opRow op with
  | none => rfl
  | some row =>
    have hf : opForm row = none := by simpa [hr] using hrow
    simp only [hf]

/-- Settles O6: the fetch reads the instruction back, whether its bytes come from devices or lie in plain memory. -/
theorem stepRunsTheDecodedInstruction : Obligations.StepRunsTheDecodedInstruction := by
  refine ⟨?fetched, ?plain, ?table, ?illegal⟩
  case fetched =>
    intro i op s u hr hw hrow hfetch
    exact step_of_fetchInstr hr (fetchInstr_of_fetchBytes (s := s.clearDma) hw hrow hfetch)
  case plain =>
    intro i op s hr hw hrow hmem
    have hfetch := fetchBytes_of_plain (bs := op :: (encode i).tail) (s := s.clearDma) fun k v hk =>
      ⟨(plainRead_congr (s := s) rfl).mpr (hmem k v hk).1, (State.byteAt_congr rfl rfl _ _).trans (hmem k v hk).2⟩
    exact step_of_fetchInstr hr (fetchInstr_of_fetchBytes (s := s.clearDma) hw hrow hfetch)
  case table =>
    intro i
    obtain ⟨f, hf, -⟩ := opForm_opcode i
    exact ⟨by rw [defaultOpTable_get, defaultOpRow, hf], rfl⟩
  case illegal =>
    intro op s t hr hrow hload
    rw [step_ready hr, iteration, fetchInstr_illegal (s := s.clearDma) hrow hload]
    rfl

end Sys2Proof.Machine
end

section
/-! PROOFS. The bus (20 R60 to R69): what a load and a store answer by the window, RAM, and the mirrored banks. -/

namespace Sys2Proof.Machine

/-! ### Answers by window -/

theorem busLoad_unmapped {s : State} {b : Byte} {o : Word} (h : s.window b o = none) :
    busLoad b o s = .error (.busUnmapped b o) := by simp only [busLoad, h]

theorem busStore_unmapped {s : State} {b : Byte} {o : Word} (h : s.window b o = none) (v : Byte) :
    busStore b o v s = .error (.busUnmapped b o) := by simp only [busStore, h]

section Window

variable {s : State} {b : Byte} {o : Word} {w : Window} (hw : s.window b o = some w)
include hw

theorem busLoad_unreadable (hr : w.readable = false) : busLoad b o s = .error (.busAccessViolation b o .read) := by
  simp [busLoad, hw, hr]

theorem busStore_unwritable (hr : w.writable = false) (v : Byte) :
    busStore b o v s = .error (.busAccessViolation b o .write) := by
  simp [busStore, hw, hr]

theorem busLoad_register (hr : w.readable = true) (hm : w.kind ≠ .memory) (hd : w.kind ≠ .device) :
    busLoad b o s = .ok (registerLoad (s.busAddr b o) s) := by
  cases hk : w.kind with
  | memory => exact absurd hk hm
  | device => exact absurd hk hd
  | _ => simp [busLoad, hw, hr, hk]

theorem busLoad_device (hr : w.readable = true) (hk : w.kind = .device) : busLoad b o s = deviceLoad b o s := by
  simp [busLoad, hw, hr, hk]

theorem busStore_device (hr : w.writable = true) (hk : w.kind = .device) (v : Byte) :
    busStore b o v s = deviceStore b o v s := by
  simp [busStore, hw, hr, hk]

end Window

/-- Settles O16: the window that answers fixes the answer, and what a device changes is not the CPU's nor the clock's. -/
theorem busAnswersByWindow : Obligations.BusAnswersByWindow := by
  rintro s b o v a r rfl rfl
  have touched := registerLoad_touched (s.busAddr b o) s
  refine ⟨fun h => ⟨busLoad_unmapped h, busStore_unmapped h v⟩, fun w hw => ⟨busLoad_unreadable hw,
    fun h => busStore_unwritable hw h v, fun hr hk => busLoad_plain ⟨w, hw, hk, hr⟩,
    fun hr hk => busStore_plain ⟨w, hw, hk, hr⟩ v,
    fun hr hm hd => ⟨_, busLoad_register hw hr hm hd, touched.cpu, touched.clock⟩, ?load, ?store⟩⟩
  case load =>
    intro hr hk
    refine ⟨_, touched.cpu, touched.clock, ?_⟩
    rw [busLoad_device hw hr hk, deviceLoad]
    rcases (Config.freeDeviceLoad s (s.busAddr b o)).trap with - | (_ | _) <;> rfl
  case store =>
    intro hr hk
    have touched := (setHidden_touched s (Config.freeDeviceStore s (s.busAddr b o) v).hidden).trans
      (deviceWrites_touched (Config.freeDeviceStore s (s.busAddr b o) v).effects _)
    refine ⟨_, touched.cpu, touched.clock, ?_⟩
    rw [busStore_device hw hr hk, deviceStore]
    rcases (Config.freeDeviceStore s (s.busAddr b o) v).trap with - | ((_ | _) | _ | _) <;> rfl

/-! ### RAM -/

theorem ram_congr {s t : State} (h : t.cfg = s.cfg) {b : Byte} {o : Word} : t.Ram b o ↔ s.Ram b o := by
  rw [State.Ram, plainRead_congr h, plainWrite_congr h, State.Ram]

theorem ram_storeByte {s : State} {b b' : Byte} {o o' : Word} {v : Byte} :
    (s.storeByte b o v).Ram b' o' ↔ s.Ram b' o' := ram_congr rfl

theorem apart_storeByte {s : State} {b c c' : Byte} {o p p' : Word} {v : Byte} :
    (s.storeByte b o v).Apart c p c' p' ↔ s.Apart c p c' p' := apart_congr rfl

theorem wf_storeByte {s : State} (h : Memory.wf s.mem) (b : Byte) (o : Word) (v : Byte) :
    Memory.wf (s.storeByte b o v).mem := (storeByte_touched s b o v).mem h

/-- The states a word stored to two RAM bytes goes through. -/
theorem busStoreWord_plain {s : State} {b : Byte} {o : Word} (h : s.PlainWrite b o) (h' : s.PlainWrite b (o + 1))
    (v : Word) : busStoreWord b o v s = .ok ((s.storeByte b o (lo v)).storeByte b (o + 1) (hi v)) := by
  rw [busStoreWord, busStore_plain h, writeThen_ok]
  exact busStore_plain ((plainWrite_congr (s := s) (t := s.storeByte b o (lo v)) rfl).mpr h') (hi v)

theorem busLoadWord_plain {s : State} {b : Byte} {o : Word} (h : s.PlainRead b o) (h' : s.PlainRead b (o + 1)) :
    busLoadWord b o s = .ok (word (s.byteAt b (o + 1)) (s.byteAt b o), s) := by
  rw [busLoadWord, busLoad_plain h, readThen_ok, busLoad_plain h', readThen_ok]

/-- Settles O17: a byte reads back after its own store and outlives a store apart from it; a word is two such stores. -/
theorem ramReturnsWhatWasStored : Obligations.RamReturnsWhatWasStored := by
  intro s b o hwf hram
  constructor
  · intro v
    refine ⟨s.storeByte b o v, busStore_plain hram.2 v, wf_storeByte hwf b o v, ?_,
      fun b' o' ha => byteAt_storeByte_other ha v⟩
    rw [busLoad_plain (ram_storeByte.mpr hram).1, byteAt_storeByte_same hwf.1]
  · intro v hram' hapart
    have hwf' := wf_storeByte hwf b o (lo v)
    have high : ((s.storeByte b o (lo v)).storeByte b (o + 1) (hi v)).byteAt b (o + 1) = hi v :=
      byteAt_storeByte_same hwf'.1 b (o + 1) (hi v)
    have other : ∀ b' o', s.Apart b' o' b (o + 1) →
        ((s.storeByte b o (lo v)).storeByte b (o + 1) (hi v)).byteAt b' o' = (s.storeByte b o (lo v)).byteAt b' o' :=
      fun b' o' ha => byteAt_storeByte_other (apart_storeByte.mpr ha) (hi v)
    have low := (other b o hapart).trans (byteAt_storeByte_same hwf.1 b o (lo v))
    refine ⟨_, putsWord_iff.mpr (busStoreWord_plain hram.2 hram'.2 v), wf_storeByte hwf' b (o + 1) (hi v), ?_, ?_, ?_,
      fun b' o' ha ha' => (other b' o' ha').trans (byteAt_storeByte_other ha (lo v))⟩
    · rw [busLoadWord_plain (ram_storeByte.mpr (ram_storeByte.mpr hram)).1
        (ram_storeByte.mpr (ram_storeByte.mpr hram')).1, high, low, word_hi_lo]
    · rw [low, lo_toNat]
    · rw [high, hi_toNat]

/-! ### The mirrored banks -/

theorem mirrored_iff {b : Byte} {o : Word} :
    mirrored b o = true ↔ o.toNat < 0x2000 ∧ (b.toNat ≤ 0x3F ∨ 0x80 ≤ b.toNat ∧ b.toNat ≤ 0xBF) := by
  simp [mirrored]

/-- The window, the bus address and the byte follow from the address the map is asked for. -/
theorem same_of_mapAddr {s : State} {b b' : Byte} {o o' : Word}
    (h : mapAddr s.cfg.bus b' o' = mapAddr s.cfg.bus b o) :
    s.window b' o' = s.window b o ∧ s.busAddr b' o' = s.busAddr b o ∧ s.byteAt b' o' = s.byteAt b o := by
  have ha : s.busAddr b' o' = s.busAddr b o := congrArg (backed s.cfg.bus) h
  exact ⟨congrArg (windowAt s.cfg.bus) h, ha, congrArg (bytesRead s.mem) ha⟩

/-- Settles O18: every mirrored address asks the map for the same place in working RAM, every other for its number. -/
theorem firstEightKilobytesAreMirrored : Obligations.FirstEightKilobytesAreMirrored := by
  intro s
  constructor
  · intro r b o hr ho hb
    have mapped : ∀ b' : Byte, (b'.toNat ≤ 0x3F ∨ (0x80 ≤ b'.toNat ∧ b'.toNat ≤ 0xBF)) →
        mapAddr s.cfg.bus b' o = r + o.toNat := fun b' hb' => mapAddr_mirrored hr (mirrored_iff.mpr ⟨ho, hb'⟩)
    refine ⟨congrArg (windowAt s.cfg.bus) (mapped b hb),
      fun b' hb' => same_of_mapAddr ((mapped b' hb').trans (mapped b hb).symm), ?home, ?flat⟩
    case home =>
      rintro k rfl hk
      have hn : mirrored k o = false := by rw [← Bool.not_eq_true, mirrored_iff]; omega
      exact same_of_mapAddr ((mapAddr_other (.inr hn)).trans (mapped b hb).symm)
    case flat =>
      intro hf
      exact (backed_flat hf _).trans (congrArg (· % addressSpace) (mapped b hb))
  · intro b o hf hout
    have hother : s.cfg.bus.mirror = none ∨ mirrored b o = false := by
      rw [← Bool.not_eq_true, mirrored_iff]
      exact hout.imp_right fun h => by omega
    calc s.busAddr b o = mapAddr s.cfg.bus b o % addressSpace := backed_flat hf _
      _ = addr24 b o % addressSpace := by rw [mapAddr_other hother]
      _ = addr24 b o := Nat.mod_eq_of_lt (addr24_lt b o)

end Sys2Proof.Machine
end

section
/-! PROOFS. The traps of the four accessors (40 R132 to R135, 20 R66, 60 R423). -/

namespace Sys2Proof.Machine

/-! ### The accessors over an address -/

theorem loadb_of_address {am : Variant} (h : immediate am = false) (s : State) :
    loadb am s = readThen (address am s) fun x s => busLoad x.1 x.2 s := by
  cases am with
  | imm8 _ | imm16 _ => cases h
  | _ => rfl

theorem loadw_of_address {am : Variant} (h : immediate am = false) (s : State) :
    loadw am s = readThen (address am s) fun x s => checkWord x.1 x.2 (busLoadWord x.1 x.2 s) := by
  cases am with
  | imm8 _ | imm16 _ => cases h
  | _ => rfl

theorem storeb_of_address {am : Variant} (h : immediate am = false) (v : Byte) (s : State) :
    storeb am v s = readThen (address am s) fun x s => busStore x.1 x.2 v s := by
  cases am with
  | imm8 _ | imm16 _ => cases h
  | _ => rfl

theorem storew_of_address {am : Variant} (h : immediate am = false) (v : Word) (s : State) :
    storew am v s = readThen (address am s) fun x s => checkWord x.1 x.2 (busStoreWord x.1 x.2 v s) := by
  cases am with
  | imm8 _ | imm16 _ => cases h
  | _ => rfl

theorem not_immediate {am : Variant} (h8 : ∀ v, am ≠ .imm8 v) (h16 : ∀ v, am ≠ .imm16 v) : immediate am = false := by
  cases am with
  | imm8 v => exact absurd rfl (h8 v)
  | imm16 v => exact absurd rfl (h16 v)
  | _ => rfl

theorem checkWord_last {β : Type} (b : Byte) (k : Except Fault β) :
    checkWord b 0xFFFF k = .error (.wordCrossesBank b 0xFFFF) := rfl

theorem checkWord_other {β : Type} {b : Byte} {o : Word} (ho : o ≠ 0xFFFF) (k : Except Fault β) :
    checkWord b o k = k := if_neg ho

section Address

variable {am : Variant} {s u : State} {b : Byte} {o : Word} (h : EffAddr am s b o u)
include h

theorem EffAddr.not_immediate : immediate am = false := by
  cases am with
  | imm8 v => exact h.elim
  | imm16 v => exact h.elim
  | _ => rfl

theorem loadb_of_effAddr : loadb am s = busLoad b o u := by
  rw [loadb_of_address h.not_immediate, address_eq_ok.mpr h, readThen_ok]

theorem loadw_of_effAddr : loadw am s = checkWord b o (busLoadWord b o u) := by
  rw [loadw_of_address h.not_immediate, address_eq_ok.mpr h, readThen_ok]

theorem storeb_of_effAddr (v : Byte) : storeb am v s = busStore b o v u := by
  rw [storeb_of_address h.not_immediate, address_eq_ok.mpr h, readThen_ok]

theorem storew_of_effAddr (v : Word) : storew am v s = checkWord b o (busStoreWord b o v u) := by
  rw [storew_of_address h.not_immediate, address_eq_ok.mpr h, readThen_ok]

end Address

/-! ### The traps of a word -/

theorem busLoadWord_low_trap {b : Byte} {o : Word} {s : State} {f : Fault} (h : busLoad b o s = .error f) :
    busLoadWord b o s = .error f := by
  rw [busLoadWord, h, readThen_error]

theorem busLoadWord_high_trap {b : Byte} {o : Word} {s t : State} {l : Byte} {f : Fault}
    (hl : busLoad b o s = .ok (l, t)) (h : busLoad b (o + 1) t = .error f) : busLoadWord b o s = .error f := by
  rw [busLoadWord, hl, readThen_ok, h, readThen_error]

theorem busStoreWord_low_trap {b : Byte} {o v : Word} {s : State} {f : Fault}
    (h : busStore b o (v.setWidth 8) s = .error f) : busStoreWord b o v s = .error f := by
  rw [busStoreWord, ← lo_eq_setWidth, h, writeThen_error]

theorem busStoreWord_high_trap {b : Byte} {o v : Word} {s t : State} {f : Fault}
    (hl : busStore b o (v.setWidth 8) s = .ok t) (h : busStore b (o + 1) ((v >>> 8).setWidth 8) t = .error f) :
    busStoreWord b o v s = .error f := by
  rw [busStoreWord, ← lo_eq_setWidth, hl, writeThen_ok, ← hi_eq_shift, h]

/-- Settles O21: over an operand that is no immediate an accessor is its address, then the bus at that address. -/
theorem accessorTraps : Obligations.AccessorTraps := by
  intro s
  refine ⟨fun _ => rfl, fun _ => rfl, fun _ _ _ => ⟨rfl, rfl⟩, fun _ _ _ => ⟨rfl, rfl⟩, ?last, ?address, ?load,
    ?loadHigh, ?store, ?storeLow, ?storeHigh⟩
  case last =>
    intro am b u w h
    rw [loadw_of_effAddr h, storew_of_effAddr h]
    exact ⟨checkWord_last b _, checkWord_last b _⟩
  case address =>
    intro am f hf hi
    have hn := not_immediate (fun v => (hi v).1) fun w => (hi 0).2 w
    simp only [loadb_of_address hn, loadw_of_address hn, storeb_of_address hn, storew_of_address hn, hf,
      readThen_error, implies_true, and_self]
  case load =>
    intro am b o u f h hf
    rw [loadb_of_effAddr h, loadw_of_effAddr h]
    exact ⟨hf, fun ho => (checkWord_other ho _).trans (busLoadWord_low_trap hf)⟩
  case loadHigh =>
    intro am b o u f l t h ho hl hf
    rw [loadw_of_effAddr h, checkWord_other ho, busLoadWord_high_trap hl hf]
  case store =>
    intro am b o u f v h hf
    rw [storeb_of_effAddr h, hf]
  case storeLow =>
    intro am b o u f v h ho hf
    rw [storew_of_effAddr h, checkWord_other ho, busStoreWord_low_trap hf]
  case storeHigh =>
    intro am b o u f v t h ho hl hf
    rw [storew_of_effAddr h, checkWord_other ho, busStoreWord_high_trap hl hf]

end Sys2Proof.Machine
end

section
/-! PROOFS. The stack on RAM (45 R240 to R244). -/

namespace Sys2Proof.Machine

/-- The state a byte pushed on RAM leaves. -/
def pushed (s : State) (v : Byte) : State :=
  (s.storeByte 0x00 s.cpu.s v).setS (stackDown s.cpu.e s.cpu.s)

theorem pushb_ram {s : State} (h : s.Ram 0x00 s.cpu.s) (v : Byte) : pushb v s = .ok (pushed s v) := pushb_plain h.2 v

theorem ram_pushed {s : State} {v : Byte} {b : Byte} {o : Word} : (pushed s v).Ram b o ↔ s.Ram b o :=
  ram_congr rfl

theorem pushed_wf {s : State} (h : Memory.wf s.mem) (v : Byte) : Memory.wf (pushed s v).mem := wf_storeByte h _ _ v

theorem pushed_byteAt_same {s : State} (h : Memory.wf s.mem) (v : Byte) : (pushed s v).byteAt 0x00 s.cpu.s = v :=
  byteAt_storeByte_same h.1 0x00 s.cpu.s v

theorem pushed_byteAt_other {s : State} {b : Byte} {o : Word} (h : s.Apart b o 0x00 s.cpu.s) (v : Byte) :
    (pushed s v).byteAt b o = s.byteAt b o := byteAt_storeByte_other h v

/-- A pop with the pointer one below a RAM byte reads that byte and puts the pointer there. -/
theorem popb_ram_above {s : State} {sp : Word} {v : Byte} (hs : s.cpu.s = stackDown s.cpu.e sp)
    (hp : s.cpu.e = true → hi sp = 0x01) (hr : s.Ram 0x00 sp) (hb : s.byteAt 0x00 sp = v) :
    popb s = .ok (v, s.setS sp) := by
  have up : stackUp s.cpu.e s.cpu.s = sp := by rw [hs, stackUp_stackDown hp]
  rw [popb_plain (up ▸ hr.1), up, hb]

theorem stackRam_two {s : State} (h : s.StackRam 2) : s.Ram 0x00 s.cpu.s ∧ s.Ram 0x00 (stackDown s.cpu.e s.cpu.s) ∧
    s.Apart 0x00 s.cpu.s 0x00 (stackDown s.cpu.e s.cpu.s) := by
  obtain ⟨hram, hapart⟩ := h
  simp only [pushOffsets] at hram hapart
  exact ⟨hram _ (by simp), hram _ (by simp), List.rel_of_pairwise_cons hapart (by simp)⟩

/-- Two bytes pushed on RAM are popped in reverse, and the registers come back. -/
theorem pops_reverse_pushes {s : State} (hwf : Memory.wf s.mem) (hpage : s.cpu.e = true → hi s.cpu.s = 0x01)
    (hstack : s.StackRam 2) (a b : Byte) :
    ∃ t u w x, pushb a s = .ok t ∧ pushb b t = .ok u ∧ popb u = .ok (b, w) ∧ popb w = .ok (a, x) ∧ x.cpu = s.cpu ∧
      (s.cpu.e = true → hi t.cpu.s = 0x01 ∧ hi u.cpu.s = 0x01 ∧ hi w.cpu.s = 0x01) := by
  obtain ⟨hfirst, hsecond, hapart⟩ := stackRam_two hstack
  have top : (pushed (pushed s a) b).byteAt 0x00 (stackDown s.cpu.e s.cpu.s) = b :=
    pushed_byteAt_same (pushed_wf hwf a) b
  have below : (pushed (pushed s a) b).byteAt 0x00 s.cpu.s = a :=
    (pushed_byteAt_other (s := pushed s a) hapart b).trans (pushed_byteAt_same hwf a)
  have ram : ∀ {o}, s.Ram 0x00 o → (pushed (pushed s a) b).Ram 0x00 o := fun h => ram_pushed.mpr (ram_pushed.mpr h)
  refine ⟨pushed s a, pushed (pushed s a) b, _, _, pushb_ram hfirst a, pushb_ram (ram_pushed.mpr hsecond) b,
    popb_ram_above rfl stackDown_keeps_page (ram hsecond) top,
    popb_ram_above (s := (pushed (pushed s a) b).setS _) rfl hpage (ram hfirst) below, rfl, fun he => ?_⟩
  exact ⟨stackDown_keeps_page he, stackDown_keeps_page he, stackDown_keeps_page he⟩

/-- Settles O39: a word is its high byte pushed, then its low byte, so the case of two bytes gives that of a word. -/
theorem stackIsLastInFirstOut : Obligations.StackIsLastInFirstOut := by
  intro s hwf hpage hstack
  refine ⟨fun v => ?_, pops_reverse_pushes hwf hpage hstack⟩
  obtain ⟨t, u, w, x, ht, hu, hw, hx, hcpu, hpages⟩ := pops_reverse_pushes hwf hpage hstack (hi v) (lo v)
  exact ⟨u, x, pushw_eq_ok.mpr ⟨t, ht, hu⟩, popw_eq_ok.mpr ⟨lo v, w, hi v, hw, hx, (word_hi_lo v).symm⟩, hcpu,
    fun he => (hpages he).2.1⟩

end Sys2Proof.Machine
end

section
/-! PROOFS. What a read-modify-write writes, over natural numbers (42 R181, R182, 43 R201 to R206). -/

namespace Sys2Proof.Machine

/-- A bit into the place a left shift leaves free. -/
theorem shiftLeft_or_toNat {w : Nat} (v : BitVec w) (k : Bool) :
    (v <<< 1 ||| BitVec.ofNat w k.toNat).toNat = (v.toNat * 2 + k.toNat) % 2 ^ w := by
  have disjoint : v <<< 1 &&& BitVec.ofNat w k.toNat = 0#w := by
    ext i hi
    cases i <;> cases k <;> simp
  rw [← BitVec.add_eq_or_of_and_eq_zero _ _ disjoint]
  simp [Nat.shiftLeft_eq]

/-- A bit into the place a right shift leaves free. -/
theorem shiftRight_or_toNat {w : Nat} (v : BitVec w) (k : Bool) :
    (v >>> 1 ||| BitVec.ofNat w k.toNat <<< (w - 1)).toNat = (k.toNat * 2 ^ w + v.toNat) / 2 := by
  cases w with
  | zero => cases k <;> simp [BitVec.of_length_zero]
  | succ n =>
    have hv : v.toNat / 2 < 2 ^ n := by have := v.isLt; omega
    rw [BitVec.toNat_or, BitVec.toNat_ushiftRight, BitVec.toNat_shiftLeft, Nat.add_sub_cancel,
      Nat.shiftRight_eq_div_pow, pow_one, Nat.or_comm]
    cases k with
    | false => simp
    | true =>
      have top : (BitVec.ofNat (n + 1) true.toNat).toNat <<< n % 2 ^ (n + 1) = 2 ^ n := by
        have lt : 2 ^ n < 2 ^ (n + 1) := Nat.pow_lt_pow_right one_lt_two n.lt_succ_self
        simp [Nat.shiftLeft_eq, Nat.mod_eq_of_lt lt]
      have half : (true.toNat * 2 ^ (n + 1) + v.toNat) / 2 = 2 ^ n + v.toNat / 2 := by
        rw [Bool.toNat_true, Nat.pow_succ]; omega
      have sum : 2 ^ n + v.toNat / 2 = 2 ^ n ||| v.toNat / 2 := by simpa using Nat.two_pow_add_eq_or_of_lt hv 1
      rw [top, half, sum]

/-- A computation writes what its mnemonic says. -/
def WritesAs (m : Mnemonic) (f : Alu) : Prop :=
  ∀ (w : Nat) (p : Byte) (a v r : BitVec w), m.Puts a (getFlag p .c) v r → (f w p a v).1 = r

theorem tsbAlu_writesAs : WritesAs .TSB tsbAlu := fun _ _ _ _ _ h => h.symm

theorem trbAlu_writesAs : WritesAs .TRB trbAlu := fun _ _ _ _ _ h => h.symm

theorem aslAlu_writesAs : WritesAs .ASL aslAlu := by
  rintro w p a v r ⟨k, hr, -⟩
  exact BitVec.eq_of_toNat_eq (by rw [hr, aslAlu, BitVec.toNat_shiftLeft, Nat.shiftLeft_eq, pow_one])

theorem lsrAlu_writesAs : WritesAs .LSR lsrAlu := by
  rintro w p a v r ⟨k, hr, -⟩
  exact BitVec.eq_of_toNat_eq (by rw [hr, lsrAlu, BitVec.toNat_ushiftRight, Nat.shiftRight_eq_div_pow, pow_one])

theorem rolAlu_writesAs : WritesAs .ROL rolAlu := by
  rintro w p a v r ⟨k, hr, -⟩
  exact BitVec.eq_of_toNat_eq ((shiftLeft_or_toNat v _).trans hr.symm)

theorem rorAlu_writesAs : WritesAs .ROR rorAlu := by
  rintro w p a v r ⟨k, hr, -⟩
  exact BitVec.eq_of_toNat_eq ((shiftRight_or_toNat v _).trans hr.symm)

theorem incAlu_writesAs : WritesAs .INC incAlu := by
  rintro w p a v r ⟨k, hr, -⟩
  exact BitVec.eq_of_toNat_eq (by rw [hr, incAlu, BitVec.toNat_add, BitVec.toNat_ofNat, Nat.add_mod_mod])

theorem decAlu_writesAs : WritesAs .DEC decAlu := by
  rintro w p a v r ⟨k, hr, -⟩
  have e : r + 1#w = v :=
    BitVec.eq_of_toNat_eq (by rw [← hr, BitVec.toNat_add, BitVec.toNat_ofNat, Nat.add_mod_mod])
  rw [decAlu, ← e, BitVec.add_sub_cancel]

end Sys2Proof.Machine
end

section
/-! PROOFS. The instructions over a variant by family, and the traps of an operand's access (41 R150, 42 R170, 43
R200, 60 R423). -/

namespace Sys2Proof.Machine

/-! ### The families over a variant -/

/-- The register a read or a store works on has the width the mnemonic works at. -/
theorem narrow_reg {m : Mnemonic} (h : m.isRead = true ∨ m.isStore = true) (s : State) :
    s.narrow m.reg = m.narrow s := by
  rcases h with h | h <;> cases m <;> cases h <;> rfl

/-- A read instruction that does not stop for decimal mode is the shared operand shape on its register. -/
theorem exec_read {i : Instr} {am : Variant} {s : State} (hv : i.variant? = some am) (hr : i.mnemonic.isRead = true)
    (hd : i.mnemonic = .ADC ∨ i.mnemonic = .SBC → getFlag s.cpu.p .d = false) :
    ∃ f, exec i s = finish (regOperand f i.mnemonic.reg am s) := by
  cases hm : i.mnemonic <;> rw [hm] at hr <;> cases hr
  case ADC =>
    have binary : adc i.opcode am s = regOperand adcAlu .a am s := if_neg (by simp [hd (.inl hm)])
    exact ⟨adcAlu, exec_over hv (by rw [hm]; exact congrArg some binary)⟩
  case SBC =>
    have binary : sbc i.opcode am s = regOperand sbcAlu .a am s := if_neg (by simp [hd (.inr hm)])
    exact ⟨sbcAlu, exec_over hv (by rw [hm]; exact congrArg some binary)⟩
  case BIT =>
    refine ⟨if immediate am then bitImmAlu else bitAlu, exec_over hv ?_⟩
    rw [hm, overVariant]
    split <;> rfl
  all_goals exact ⟨_, exec_over hv (by rw [hm]; rfl)⟩

/-- The byte a store stores where it is narrow (41 R154 to R157). -/
theorem exec_store_byte {i : Instr} {am : Variant} {s : State} (hv : i.variant? = some am)
    (hs : i.mnemonic.isStore = true) (hn : i.mnemonic.narrow s = true) :
    exec i s = finish (storeb am (if i.mnemonic = .STZ then 0x00 else lo (s.reg i.mnemonic.reg)) s) := by
  have hreg := narrow_reg (.inr hs) s
  rw [hn] at hreg
  cases hm : i.mnemonic <;> rw [hm] at hs hn hreg <;> cases hs
  case STZ => exact exec_over hv (by rw [hm]; exact congrArg some (if_pos hn))
  all_goals exact exec_over hv (by rw [hm]; exact congrArg some (regStore_byte hreg))

/-- The word it stores where it is wide. -/
theorem exec_store_word {i : Instr} {am : Variant} {s : State} (hv : i.variant? = some am)
    (hs : i.mnemonic.isStore = true) (hn : i.mnemonic.narrow s = false) :
    exec i s = finish (storew am (if i.mnemonic = .STZ then 0x0000 else s.reg i.mnemonic.reg) s) := by
  have hreg := narrow_reg (.inr hs) s
  rw [hn] at hreg
  cases hm : i.mnemonic <;> rw [hm] at hs hn hreg <;> cases hs
  case STZ => exact exec_over hv (by rw [hm]; exact congrArg some (if_neg (ne_true_of_eq_false hn)))
  all_goals exact exec_over hv (by rw [hm]; exact congrArg some (regStore_word hreg))

/-- A read-modify-write instruction over a variant is the primitive, on a computation that writes what it says. -/
theorem exec_modify {i : Instr} {am : Variant} (s : State) (hv : i.variant? = some am)
    (hm : i.mnemonic.isModify = true) :
    ∃ f, WritesAs i.mnemonic f ∧ exec i s = finish (readModifyWrite f am s) := by
  have run : ∀ {m f}, i.mnemonic = m → WritesAs m f → overVariant m i.opcode am s = some (readModifyWrite f am s) →
      ∃ f, WritesAs m f ∧ exec i s = finish (readModifyWrite f am s) :=
    fun he hf ho => ⟨_, hf, exec_over hv (he ▸ ho)⟩
  cases he : i.mnemonic <;> rw [he] at hm <;> cases hm
  case TSB => exact run he tsbAlu_writesAs rfl
  case TRB => exact run he trbAlu_writesAs rfl
  case ASL => exact run he aslAlu_writesAs rfl
  case LSR => exact run he lsrAlu_writesAs rfl
  case ROL => exact run he rolAlu_writesAs rfl
  case ROR => exact run he rorAlu_writesAs rfl
  case INC => exact run he incAlu_writesAs rfl
  case DEC => exact run he decAlu_writesAs rfl

theorem narrow_modify {m : Mnemonic} (h : m.isModify = true) (s : State) : m.narrow s = s.m8 := by
  cases m <;> cases h <;> rfl

/-! ### Traps of the shapes -/

theorem regOperand_byte_trap {f : Alu} {r : Reg} {am : Variant} {s : State} {e : Fault} (hn : s.narrow r = true)
    (h : loadb am s = .error e) : regOperand f r am s = .error e := by
  rw [regOperand, if_pos hn, h, readThen_error]

theorem regOperand_word_trap {f : Alu} {r : Reg} {am : Variant} {s : State} {e : Fault} (hn : s.narrow r = false)
    (h : loadw am s = .error e) : regOperand f r am s = .error e := by
  rw [regOperand, if_neg (by simp [hn]), h, readThen_error]

/-- The read-modify-write primitive once it has its address, in 8 bits. -/
def modifyByte (f : Alu) (b : Byte) (o : Word) (s : State) : Except Fault State :=
  readThen (busLoad b o s) fun v s =>
  writeThen (busStore b o (f 8 s.cpu.p (lo s.cpu.a) v).1 s) fun t => .ok (t.setP (f 8 s.cpu.p (lo s.cpu.a) v).2)

/-- The same in 16 bits. -/
def modifyWord (f : Alu) (b : Byte) (o : Word) (s : State) : Except Fault State :=
  readThen (busLoadWord b o s) fun v s =>
  writeThen (busStoreWord b o (f 16 s.cpu.p s.cpu.a v).1 s) fun t => .ok (t.setP (f 16 s.cpu.p s.cpu.a v).2)

section Modify

variable {f : Alu} {am : Variant} {s u : State} {b : Byte} {o : Word}

theorem readModifyWrite_address_trap {e : Fault} (h : address am s = .error e) : readModifyWrite f am s = .error e := by
  rw [readModifyWrite, h, readThen_error]

theorem readModifyWrite_of_effAddr (h : EffAddr am s b o u) :
    readModifyWrite f am s = if s.m8 then modifyByte f b o u else checkWord b o (modifyWord f b o u) := by
  rw [readModifyWrite, address_eq_ok.mpr h, readThen_ok,
    State.m8_congr (s := s) (by rw [(effAddr_loaded h).cpu]) (by rw [(effAddr_loaded h).cpu])]
  rfl

theorem readModifyWrite_narrow (hm : s.m8 = true) (h : EffAddr am s b o u) :
    readModifyWrite f am s = modifyByte f b o u := by rw [readModifyWrite_of_effAddr h, if_pos hm]

theorem readModifyWrite_wide (hm : s.m8 = false) (h : EffAddr am s b o u) :
    readModifyWrite f am s = checkWord b o (modifyWord f b o u) := by
  rw [readModifyWrite_of_effAddr h, if_neg (by simp [hm])]

theorem modifyByte_load_trap {e : Fault} (h : busLoad b o u = .error e) : modifyByte f b o u = .error e := by
  rw [modifyByte, h, readThen_error]

theorem modifyWord_load_trap {e : Fault} (h : busLoadWord b o u = .error e) : modifyWord f b o u = .error e := by
  rw [modifyWord, h, readThen_error]

theorem modifyByte_store_trap {e : Fault} {v r : Byte} {x : State} (hl : busLoad b o u = .ok (v, x))
    (hr : (f 8 u.cpu.p (lo u.cpu.a) v).1 = r) (h : busStore b o r x = .error e) : modifyByte f b o u = .error e := by
  rw [modifyByte, hl, readThen_ok, (busLoad_loaded hl).cpu, hr, h, writeThen_error]

theorem modifyWord_store_trap {e : Fault} {v r : Word} {x : State} (hl : busLoadWord b o u = .ok (v, x))
    (hr : (f 16 u.cpu.p u.cpu.a v).1 = r) (h : busStoreWord b o r x = .error e) : modifyWord f b o u = .error e := by
  rw [modifyWord, hl, readThen_ok, (busLoadWord_loaded hl).cpu, hr, h, writeThen_error]

end Modify

/-- The traps of a read-modify-write instruction, in the order of 43 R200. -/
theorem modify_traps {i : Instr} {am : Variant} {s : State} {f : Fault} (hv : i.variant? = some am)
    (hi : i.mnemonic.isModify = true) :
    (address am s = .error f → exec i s = .fault f) ∧
    (∀ b u, s.m8 = false → EffAddr am s b 0xFFFF u → exec i s = .fault (.wordCrossesBank b 0xFFFF)) ∧
    (∀ b o u, (s.m8 = true ∨ o ≠ 0xFFFF) → EffAddr am s b o u → busLoad b o u = .error f → exec i s = .fault f) ∧
    (∀ b o u l x, s.m8 = false → o ≠ 0xFFFF → EffAddr am s b o u → busLoad b o u = .ok (l, x) →
      busLoad b (o + 1) x = .error f → exec i s = .fault f) ∧
    (∀ b o u (v r : Byte) x, s.m8 = true → EffAddr am s b o u → busLoad b o u = .ok (v, x) →
      i.mnemonic.Puts (lo s.cpu.a) (getFlag s.cpu.p .c) v r → busStore b o r x = .error f → exec i s = .fault f) ∧
    ∀ b o u (v r : Word) x, s.m8 = false → o ≠ 0xFFFF → EffAddr am s b o u → busLoadWord b o u = .ok (v, x) →
      i.mnemonic.Puts s.cpu.a (getFlag s.cpu.p .c) v r →
      (busStore b o (r.setWidth 8) x = .error f → exec i s = .fault f) ∧
      ∀ y, busStore b o (r.setWidth 8) x = .ok y → busStore b (o + 1) ((r >>> 8).setWidth 8) y = .error f →
        exec i s = .fault f := by
  obtain ⟨g, hg, he⟩ := exec_modify s hv hi
  simp only [he, finish_eq_fault]
  refine ⟨readModifyWrite_address_trap, ?last, ?load, ?loadHigh, ?storeByte, ?storeWord⟩
  case last =>
    intro b u hm h
    rw [readModifyWrite_wide hm h, checkWord_last]
  case load =>
    intro b o u hmo h hf
    cases hm : s.m8
    · have ho : o ≠ 0xFFFF := hmo.resolve_left (by simp [hm])
      rw [readModifyWrite_wide hm h, checkWord_other ho, modifyWord_load_trap (busLoadWord_low_trap hf)]
    · rw [readModifyWrite_narrow hm h, modifyByte_load_trap hf]
  case loadHigh =>
    intro b o u l x hm ho h hl hf
    rw [readModifyWrite_wide hm h, checkWord_other ho, modifyWord_load_trap (busLoadWord_high_trap hl hf)]
  case storeByte =>
    intro b o u v r x hm h hl hp hf
    have hr := hg 8 _ _ _ _ hp
    rw [← (effAddr_loaded h).cpu] at hr
    rw [readModifyWrite_narrow hm h, modifyByte_store_trap hl hr hf]
  case storeWord =>
    intro b o u v r x hm ho h hl hp
    have hr := hg 16 _ _ _ _ hp
    rw [← (effAddr_loaded h).cpu] at hr
    rw [readModifyWrite_wide hm h, checkWord_other ho]
    exact ⟨fun hf => modifyWord_store_trap hl hr (busStoreWord_low_trap hf),
      fun y hy hf => modifyWord_store_trap hl hr (busStoreWord_high_trap hy hf)⟩

/-! ### Traps of the stack -/

theorem pushReg_byte {r : Reg} {s : State} (h : s.narrow r = true) : pushReg r s = pushb (lo (s.reg r)) s := if_pos h

theorem pushReg_word {r : Reg} {s : State} (h : s.narrow r = false) : pushReg r s = pushw (s.reg r) s :=
  if_neg (ne_true_of_eq_false h)

theorem pullReg_byte_trap {r : Reg} {s : State} {f : Fault} (hn : s.narrow r = true) (h : popb s = .error f) :
    pullReg r s = .error f := by rw [pullReg, if_pos hn, h, readThen_error]

theorem pullReg_word_trap {r : Reg} {s : State} {f : Fault} (hn : s.narrow r = false) (h : popw s = .error f) :
    pullReg r s = .error f := by rw [pullReg, if_neg (ne_true_of_eq_false hn), h, readThen_error]

theorem pushReturn_onTop {s : State} (h : s.cfg.callStackOrder = .pbrOnTop) (ra : Word) :
    pushReturn ra s = writeThen (pushw ra s) fun t => pushb t.cpu.pbr t := by rw [pushReturn, h]

theorem pushReturn_deepest {s : State} (h : s.cfg.callStackOrder = .pbrDeepest) (ra : Word) :
    pushReturn ra s = writeThen (pushb s.cpu.pbr s) (pushw ra) := by rw [pushReturn, h]

theorem popReturn_onTop {s : State} (h : s.cfg.callStackOrder = .pbrOnTop) :
    popReturn s = readThen (popb s) fun b s => readThen (popw s) fun ra s => .ok ((b, ra), s) := by rw [popReturn, h]

theorem popReturn_deepest {s : State} (h : s.cfg.callStackOrder = .pbrDeepest) :
    popReturn s = readThen (popw s) fun ra s => readThen (popb s) fun b s => .ok ((b, ra), s) := by rw [popReturn, h]

/-- JSL is its three pushes, then the jump: its target needs no load. -/
theorem exec_jsl (b : Byte) (a : Word) (s : State) :
    exec (.jsl b a) s = finish (writeThen (pushReturn (s.cpu.pc - 1) s) fun t => .ok (t.jump b a)) := rfl

theorem exec_rtl (s : State) :
    exec .rtl s = finish (readThen (popReturn s) fun x t => .ok (t.jump x.1 (x.2 + 1))) := rfl

theorem exec_rti (s : State) : exec .rti s = finish (returnFromInterrupt s) := rfl

theorem eq_return_offset {pc ra : Word} (h : ra.toNat = (pc.toNat + 65535) % 65536) : ra = pc - 1 := by bv_omega

theorem push_byte_traps {i : Instr} {v : Byte} {s : State} {f : Fault}
    (hi : i = .pha ∧ s.m8 = true ∧ v = lo s.cpu.a ∨ i = .phx ∧ s.x8 = true ∧ v = lo s.cpu.x ∨
      i = .phy ∧ s.x8 = true ∧ v = lo s.cpu.y ∨ i = .php ∧ v = s.cpu.p ∨ i = .phb ∧ v = s.cpu.dbr ∨
      i = .phk ∧ v = s.cpu.pbr) (h : pushb v s = .error f) : exec i s = .fault f := by
  rcases hi with ⟨rfl, hn, rfl⟩ | ⟨rfl, hn, rfl⟩ | ⟨rfl, hn, rfl⟩ | ⟨rfl, rfl⟩ | ⟨rfl, rfl⟩ | ⟨rfl, rfl⟩
  · exact congrArg finish ((pushReg_byte (r := .a) hn).trans h)
  · exact congrArg finish ((pushReg_byte (r := .x) hn).trans h)
  · exact congrArg finish ((pushReg_byte (r := .y) hn).trans h)
  all_goals exact congrArg finish h

theorem push_word_traps {i : Instr} {v : Word} {s : State} {f : Fault}
    (hi : i = .pha ∧ s.m8 = false ∧ v = s.cpu.a ∨ i = .phx ∧ s.x8 = false ∧ v = s.cpu.x ∨
      i = .phy ∧ s.x8 = false ∧ v = s.cpu.y ∨ i = .phd ∧ v = s.cpu.d) (h : pushw v s = .error f) :
    exec i s = .fault f := by
  rcases hi with ⟨rfl, hn, rfl⟩ | ⟨rfl, hn, rfl⟩ | ⟨rfl, hn, rfl⟩ | ⟨rfl, rfl⟩
  · exact congrArg finish ((pushReg_word (r := .a) hn).trans h)
  · exact congrArg finish ((pushReg_word (r := .x) hn).trans h)
  · exact congrArg finish ((pushReg_word (r := .y) hn).trans h)
  · exact congrArg finish h

theorem pop_byte_traps {i : Instr} {s : State} {f : Fault}
    (hi : i = .pla ∧ s.m8 = true ∨ i = .plx ∧ s.x8 = true ∨ i = .ply ∧ s.x8 = true ∨ i = .plp ∨ i = .plb ∨ i = .rti)
    (h : popb s = .error f) : exec i s = .fault f := by
  have first : ∀ k : Byte → State → Except Fault State, readThen (popb s) k = .error f := fun k => by
    rw [h, readThen_error]
  rcases hi with ⟨rfl, hn⟩ | ⟨rfl, hn⟩ | ⟨rfl, hn⟩ | rfl | rfl | rfl
  · exact congrArg finish (pullReg_byte_trap (r := .a) hn h)
  · exact congrArg finish (pullReg_byte_trap (r := .x) hn h)
  · exact congrArg finish (pullReg_byte_trap (r := .y) hn h)
  all_goals exact congrArg finish (first _)

theorem pop_word_traps {i : Instr} {s : State} {f : Fault}
    (hi : i = .pla ∧ s.m8 = false ∨ i = .plx ∧ s.x8 = false ∨ i = .ply ∧ s.x8 = false ∨ i = .pld)
    (h : popw s = .error f) : exec i s = .fault f := by
  rcases hi with ⟨rfl, hn⟩ | ⟨rfl, hn⟩ | ⟨rfl, hn⟩ | rfl
  · exact congrArg finish (pullReg_word_trap (r := .a) hn h)
  · exact congrArg finish (pullReg_word_trap (r := .x) hn h)
  · exact congrArg finish (pullReg_word_trap (r := .y) hn h)
  · exact congrArg finish (show pld s = .error f by rw [pld, h, readThen_error])

/-- A trap of the three pushes of JSL is the instruction's. -/
theorem jsl_trap {s : State} {f : Fault} (h : pushReturn (s.cpu.pc - 1) s = .error f) (b : Byte) (a : Word) :
    exec (.jsl b a) s = .fault f := by rw [exec_jsl, h, writeThen_error, finish_error]

theorem rtl_trap {s : State} {f : Fault} (h : popReturn s = .error f) : exec .rtl s = .fault f := by
  rw [exec_rtl, h, readThen_error, finish_error]

/-- Settles O23: each family is one shape over its accessor, and each stack operation a sequence whose first trap ends
it. -/
theorem operandTrapsStopTheInstruction : Obligations.OperandTrapsStopTheInstruction := by
  constructor
  · intro i am s f hv
    refine ⟨fun hr hd => ?read, fun hs => ⟨fun hn hf => ?_, fun hn hf => ?_⟩, fun hm => modify_traps hv hm⟩
    case read =>
      obtain ⟨g, he⟩ := exec_read hv hr hd
      have hreg := narrow_reg (.inl hr) s
      rw [he, finish_eq_fault]
      exact ⟨fun hn hf => regOperand_byte_trap (hreg.trans hn) hf, fun hn hf => regOperand_word_trap (hreg.trans hn) hf⟩
    · rw [exec_store_byte hv hs hn, hf, finish_error]
    · rw [exec_store_word hv hs hn, hf, finish_error]
  · intro s t u f
    refine ⟨fun i v => push_byte_traps, fun i v => push_word_traps, fun i => pop_byte_traps, fun i => pop_word_traps,
      ?jsl, ?rtlOnTop, ?rtlDeepest, ?rti⟩
    case jsl =>
      intro b a ra hra
      obtain rfl := eq_return_offset hra
      refine ⟨fun ho => ⟨fun hf => jsl_trap ?_ b a, fun ht hf => jsl_trap ?_ b a⟩,
        fun ho => ⟨fun hf => jsl_trap ?_ b a, fun ht hf => jsl_trap ?_ b a⟩⟩
      · rw [pushReturn_onTop ho, hf, writeThen_error]
      · rw [pushReturn_onTop ho, ht, writeThen_ok, (pushw_keeps ht).2, hf]
      · rw [pushReturn_deepest ho, hf, writeThen_error]
      · rw [pushReturn_deepest ho, ht, writeThen_ok, hf]
    case rtlOnTop =>
      refine fun ho => ⟨fun hf => rtl_trap ?_, fun k ht hf => rtl_trap ?_⟩
      · rw [popReturn_onTop ho, hf, readThen_error]
      · rw [popReturn_onTop ho, ht, readThen_ok, hf, readThen_error]
    case rtlDeepest =>
      refine fun ho => ⟨fun hf => rtl_trap ?_, fun k ht hf => rtl_trap ?_⟩
      · rw [popReturn_deepest ho, hf, readThen_error]
      · rw [popReturn_deepest ho, ht, readThen_ok, hf, readThen_error]
    case rti =>
      intro p pc ht
      rw [exec_rti, finish_eq_fault, returnFromInterrupt, ht, readThen_ok]
      refine ⟨fun hf => by rw [hf, readThen_error], fun hu he hf => ?_⟩
      have native : (u.setPc pc).cpu.e = false := by
        simp [(popw_keeps hu).2.1, (popb_keeps ht).2.1, he]
      rw [hu, readThen_ok]
      simp only [native, Bool.false_eq_true, if_false, hf, readThen_error]

end Sys2Proof.Machine
end

section
/-! PROOFS. On a bus that is RAM throughout, every operation answers (20 R69, 60 R425). -/

namespace Sys2Proof.Machine

/-- Every address is RAM: the flat bus of D41. -/
def State.AllRam (s : State) : Prop := ∀ b o, s.Ram b o

theorem State.AllRam.congr {s t : State} (h : s.AllRam) (hc : t.cfg = s.cfg) : t.AllRam :=
  fun b o => (ram_congr hc).mpr (h b o)

/-- An operation answers, and its answer has the property. -/
def Answers {β : Type} (P : β → Prop) (r : Except Fault β) : Prop := ∃ x, r = .ok x ∧ P x

/-- An operation without a value answers, on RAM still. -/
abbrev Completes (r : Except Fault State) : Prop := Answers State.AllRam r

/-- An operation that delivers a value answers, on RAM still. -/
abbrev Delivers {α : Type} (r : Except Fault (α × State)) : Prop := Answers (fun x => x.2.AllRam) r

theorem Completes.andThen {β : Type} {P : β → Prop} {r : Except Fault State} {k : State → Except Fault β}
    (h : Completes r) (hk : ∀ t, t.AllRam → Answers P (k t)) : Answers P (writeThen r k) := by
  obtain ⟨t, rfl, ht⟩ := h
  exact hk t ht

theorem Delivers.andThen {α β : Type} {P : β → Prop} {r : Except Fault (α × State)} {k : α → State → Except Fault β}
    (h : Delivers r) (hk : ∀ a t, t.AllRam → Answers P (k a t)) : Answers P (readThen r k) := by
  obtain ⟨⟨a, t⟩, rfl, ht⟩ := h
  exact hk a t ht

/-- What answers at all. -/
theorem Answers.runs {β : Type} {P : β → Prop} {r : Except Fault β} (h : Answers P r) : ∃ x, r = .ok x :=
  h.imp fun _ k => k.1

theorem Delivers.thenRuns {α β : Type} {r : Except Fault (α × State)} {k : α → State → Except Fault β} (h : Delivers r)
    (hk : ∀ a t, ∃ x, k a t = .ok x) : ∃ x, readThen r k = .ok x :=
  Answers.runs (P := fun _ => True) (h.andThen fun a t _ => (hk a t).imp fun _ e => ⟨e, trivial⟩)

theorem exec_runs {i : Instr} {s : State} {r : Except Fault State} (he : exec i s = finish r) (h : ∃ t, r = .ok t) :
    ∃ t, exec i s = .next t := by
  obtain ⟨t, ht⟩ := h
  exact ⟨t, by rw [he, ht, finish_ok]⟩

section Ram

variable {s : State} (h : s.AllRam)
include h

/-! ### The bus and the stack -/

theorem busLoad_delivers (b : Byte) (o : Word) : Delivers (busLoad b o s) := ⟨_, busLoad_plain (h b o).1, h⟩

theorem busStore_completes (b : Byte) (o : Word) (v : Byte) : Completes (busStore b o v s) :=
  ⟨_, busStore_plain (h b o).2 v, h.congr rfl⟩

theorem busLoadWord_delivers (b : Byte) (o : Word) : Delivers (busLoadWord b o s) :=
  (busLoad_delivers h b o).andThen fun _ _ ht =>
    (busLoad_delivers ht b (o + 1)).andThen fun _ _ hu => ⟨_, rfl, hu⟩

theorem busStoreWord_completes (b : Byte) (o v : Word) : Completes (busStoreWord b o v s) :=
  (busStore_completes h b o (lo v)).andThen fun _ ht => busStore_completes ht b (o + 1) (hi v)

theorem pushb_completes (v : Byte) : Completes (pushb v s) :=
  (busStore_completes h 0x00 s.cpu.s v).andThen fun _ ht => ⟨_, rfl, ht.congr rfl⟩

theorem pushw_completes (v : Word) : Completes (pushw v s) :=
  (pushb_completes h (hi v)).andThen fun _ ht => pushb_completes ht (lo v)

theorem popb_delivers : Delivers (popb s) := busLoad_delivers (s := s.setS (stackUp s.cpu.e s.cpu.s)) (h.congr rfl) 0x00 _

theorem popw_delivers : Delivers (popw s) :=
  (popb_delivers h).andThen fun _ _ ht => (popb_delivers ht).andThen fun _ _ hu => ⟨_, rfl, hu⟩

theorem pushReg_completes (r : Reg) : Completes (pushReg r s) := by
  cases hn : s.narrow r
  · rw [pushReg_word hn]; exact pushw_completes h _
  · rw [pushReg_byte hn]; exact pushb_completes h _

theorem pullReg_runs (r : Reg) : ∃ t, pullReg r s = .ok t := by
  unfold pullReg
  split
  · exact (popb_delivers h).thenRuns fun _ _ => ⟨_, rfl⟩
  · exact (popw_delivers h).thenRuns fun _ _ => ⟨_, rfl⟩

theorem pushReturn_completes (ra : Word) : Completes (pushReturn ra s) := by
  cases ho : s.cfg.callStackOrder
  · rw [pushReturn_onTop ho]
    exact (pushw_completes h ra).andThen fun _ ht => pushb_completes ht _
  · rw [pushReturn_deepest ho]
    exact (pushb_completes h _).andThen fun _ ht => pushw_completes ht ra

theorem popReturn_delivers : Delivers (popReturn s) := by
  cases ho : s.cfg.callStackOrder
  · rw [popReturn_onTop ho]
    exact (popb_delivers h).andThen fun _ _ ht => (popw_delivers ht).andThen fun _ _ hu => ⟨_, rfl, hu⟩
  · rw [popReturn_deepest ho]
    exact (popw_delivers h).andThen fun _ _ ht => (popb_delivers ht).andThen fun _ _ hu => ⟨_, rfl, hu⟩

theorem returnFromInterrupt_completes : Completes (returnFromInterrupt s) := by
  refine (popb_delivers h).andThen fun p t ht => (popw_delivers (s := t.setP p) (ht.congr rfl)).andThen
    fun pc u hu => ?_
  have hu : (u.setPc pc).AllRam := hu.congr rfl
  simp only
  split
  · exact ⟨_, rfl, hu⟩
  · exact (popb_delivers hu).andThen fun b w hw => ⟨_, rfl, hw.congr rfl⟩

/-! ### Operands -/

theorem loadb_delivers {am : Variant} (ha : (∃ v, am = .imm8 v) ∨ ∃ b o, EffAddr am s b o s) :
    Delivers (loadb am s) := by
  rcases ha with ⟨v, rfl⟩ | ⟨b, o, ha⟩
  · exact ⟨_, rfl, h⟩
  · rw [loadb_of_effAddr ha]; exact busLoad_delivers h b o

theorem loadw_delivers {am : Variant} (ha : (∃ v, am = .imm16 v) ∨ ∃ b o, EffAddr am s b o s ∧ o ≠ 0xFFFF) :
    Delivers (loadw am s) := by
  rcases ha with ⟨v, rfl⟩ | ⟨b, o, ha, ho⟩
  · exact ⟨_, rfl, h⟩
  · rw [loadw_of_effAddr ha, checkWord_other ho]; exact busLoadWord_delivers h b o

theorem modifyByte_completes (f : Alu) (b : Byte) (o : Word) : Completes (modifyByte f b o s) :=
  (busLoad_delivers h b o).andThen fun _ _ ht =>
    (busStore_completes ht b o _).andThen fun _ hu => ⟨_, rfl, hu.congr rfl⟩

theorem modifyWord_completes (f : Alu) (b : Byte) (o : Word) : Completes (modifyWord f b o s) :=
  (busLoadWord_delivers h b o).andThen fun _ _ ht =>
    (busStoreWord_completes ht b o _).andThen fun _ hu => ⟨_, rfl, hu.congr rfl⟩

/-- The instructions without an operand never stop on RAM. -/
theorem implied_runs {m : Mnemonic} {r : Except Fault State} (hm : implied m s = some r) : ∃ t, r = .ok t := by
  cases m <;> cases hm
  case PHA | PHX | PHY => exact (pushReg_completes h _).runs
  case PHP | PHB | PHK => exact (pushb_completes h _).runs
  case PHD => exact (pushw_completes h _).runs
  case PLA | PLX | PLY => exact pullReg_runs h _
  case PLP => exact (popb_delivers h).thenRuns fun _ _ => ⟨_, rfl⟩
  case PLB => exact (popb_delivers h).thenRuns fun _ _ => ⟨_, rfl⟩
  case PLD => exact (popw_delivers h).thenRuns fun _ _ => ⟨_, rfl⟩
  case RTL => exact (popReturn_delivers h).thenRuns fun _ _ => ⟨_, rfl⟩
  case RTI => exact (returnFromInterrupt_completes h).runs
  all_goals exact ⟨_, rfl⟩

end Ram

/-! ### Immediates -/

/-- An immediate operand has the width its instruction works at (30 R97). -/
theorem immFits_of_wf {i : Instr} {am : Variant} {s : State} (hw : i.wf s.m8 s.x8 = true) (hv : i.variant? = some am)
    (hr : i.mnemonic.isRead = true) (hi : immediate am = true) : immFits (i.mnemonic.narrow s) (some am) = true := by
  cases i <;> cases hr <;> cases hv <;> first | exact hw | cases hi

theorem eq_imm8_of_fits {am : Variant} (h : immFits true (some am) = true) : ∃ v, am = .imm8 v := by
  cases am with
  | imm8 v => exact ⟨v, rfl⟩
  | _ => cases h

theorem eq_imm16_of_fits {am : Variant} (h : immFits false (some am) = true) : ∃ v, am = .imm16 v := by
  cases am with
  | imm16 v => exact ⟨v, rfl⟩
  | _ => cases h

/-- No store and no read-modify-write has an immediate form. -/
theorem not_immediate_of_writes {i : Instr} {am : Variant} (hv : i.variant? = some am)
    (hi : i.mnemonic.isStore = true ∨ i.mnemonic.isModify = true) : immediate am = false := by
  rcases hi with hi | hi <;> cases i <;> cases hi <;> cases hv <;> rfl

/-! ### Every instruction -/

/-- What is read, stored to or modified through a variant is an immediate of the right width or has an address fit for
its width. -/
def OperandFits (i : Instr) (am : Variant) (s : State) : Prop :=
  immediate am = false → ∃ b o, EffAddr am s b o s ∧ (i.mnemonic.narrow s = false → o ≠ 0xFFFF)

section Over

variable {i : Instr} {am : Variant} {s : State} (h : s.AllRam) (hv : i.variant? = some am) (ha : OperandFits i am s)
include h hv ha

theorem read_runs_on_ram (hw : i.wf s.m8 s.x8 = true) (hr : i.mnemonic.isRead = true)
    (hd : i.mnemonic = .ADC ∨ i.mnemonic = .SBC → getFlag s.cpu.p .d = false) : ∃ t, exec i s = .next t := by
  obtain ⟨f, he⟩ := exec_read hv hr hd
  refine exec_runs he ?_
  have fits := immFits_of_wf hw hv hr
  rw [regOperand, narrow_reg (.inl hr)]
  cases hn : i.mnemonic.narrow s
  · refine (loadw_delivers h (am := am) ?_).thenRuns fun _ _ => ⟨_, rfl⟩
    cases hi : immediate am
    · obtain ⟨b, o, hb, ho⟩ := ha hi
      exact .inr ⟨b, o, hb, ho hn⟩
    · exact .inl (eq_imm16_of_fits (hn ▸ fits hi))
  · refine (loadb_delivers h (am := am) ?_).thenRuns fun _ _ => ⟨_, rfl⟩
    cases hi : immediate am
    · obtain ⟨b, o, hb, -⟩ := ha hi
      exact .inr ⟨b, o, hb⟩
    · exact .inl (eq_imm8_of_fits (hn ▸ fits hi))

theorem store_runs_on_ram (hs : i.mnemonic.isStore = true) : ∃ t, exec i s = .next t := by
  obtain ⟨b, o, hb, ho⟩ := ha (not_immediate_of_writes hv (.inl hs))
  cases hn : i.mnemonic.narrow s
  · refine exec_runs (exec_store_word hv hs hn) ?_
    rw [storew_of_effAddr hb, checkWord_other (ho hn)]
    exact (busStoreWord_completes h b o _).runs
  · refine exec_runs (exec_store_byte hv hs hn) ?_
    rw [storeb_of_effAddr hb]
    exact (busStore_completes h b o _).runs

theorem modify_runs_on_ram (hm : i.mnemonic.isModify = true) : ∃ t, exec i s = .next t := by
  obtain ⟨b, o, hb, ho⟩ := ha (not_immediate_of_writes hv (.inr hm))
  obtain ⟨f, -, he⟩ := exec_modify s hv hm
  refine exec_runs he ?_
  cases hn : s.m8
  · rw [readModifyWrite_wide hn hb, checkWord_other (ho ((narrow_modify hm s).trans hn))]
    exact (modifyWord_completes h f b o).runs
  · rw [readModifyWrite_narrow hn hb]
    exact (modifyByte_completes h f b o).runs

end Over

/-- The mnemonics that mean something over a variant read, store or modify. -/
theorem family_of_overVariant {m : Mnemonic} {op : Byte} {am : Variant} {s : State} {r : Except Fault State}
    (h : overVariant m op am s = some r) : m.isRead = true ∨ m.isStore = true ∨ m.isModify = true := by
  cases m <;> cases h <;> decide

/-- Settles O24: every operand access, push and pop answers where every byte is RAM, so what is left are the traps the
hypotheses exclude. -/
theorem everyInstructionCompletesOnRam : Obligations.EveryInstructionCompletesOnRam := by
  intro i s hw hram hd he ha
  have h : s.AllRam := hram
  rcases exec_cases i s with ⟨am, r, hv, hm, -⟩ | ⟨r, hv, hm, hx⟩ | ⟨k, c, hv, hm, hx⟩ | ⟨k, rfl⟩ | ⟨k, rfl⟩
    | ⟨b, a, rfl⟩ | ⟨b, a, rfl⟩
  case inl =>
    have family := family_of_overVariant hm
    have fits : OperandFits i am s := fun hi => ha family am hv (by rintro v rfl; cases hi) (by rintro v rfl; cases hi)
    rcases family with hr | hs | hm
    · exact read_runs_on_ram h hv fits hw hr hd
    · exact store_runs_on_ram h hv fits hs
    · exact modify_runs_on_ram h hv fits hm
  case inr.inl => exact exec_runs hx (implied_runs h hm)
  case inr.inr.inl => exact exec_runs hx ⟨_, rfl⟩
  case inr.inr.inr.inl => exact exec_runs (r := rep k s) rfl ⟨_, if_neg (by simp [he (.inl rfl)])⟩
  case inr.inr.inr.inr.inl => exact exec_runs (r := sep k s) rfl ⟨_, if_neg (by simp [he (.inr rfl)])⟩
  case inr.inr.inr.inr.inr.inl => exact exec_runs (r := jml b a s) rfl ⟨_, rfl⟩
  case inr.inr.inr.inr.inr.inr =>
    obtain ⟨t, ht, -⟩ := pushReturn_completes h (s.cpu.pc - 1)
    exact exec_runs (exec_jsl b a s) ⟨t.jump b a, by rw [ht, writeThen_ok]⟩

end Sys2Proof.Machine
end

section
/-! PROOFS. Which bytes an instruction can change (20 R68, 40 R134 to R136, 43 R200, 45 R240 to R251, 46 R282). -/

namespace Sys2Proof.Machine

/-! ### What reads and register updates do -/

/-- No memory is written, unless by a device on a bus that is not quiet, and no DMA is run. -/
structure ReadsOnly (s t : State) : Prop extends Kept s t where
  sameMem : s.Quiet → t.mem = s.mem
  dma     : t.sched.dmaCycles = s.sched.dmaCycles

theorem ReadsOnly.trans {s t u : State} (h : ReadsOnly s t) (k : ReadsOnly t u) : ReadsOnly s u :=
  ⟨h.toKept.trans k.toKept, quiet_trans h.toKept h.sameMem k.sameMem, k.dma.trans h.dma⟩

theorem Loaded.readsOnly {s t : State} (h : Loaded s t) : ReadsOnly s t := ⟨h.toKept, h.sameMem, h.dma⟩

/-- An update of CPU registers alone. -/
theorem readsOnly_cpu (s : State) (c : Cpu) : ReadsOnly s { s with cpu := c } :=
  ⟨Kept.of_fields rfl rfl rfl rfl rfl rfl, fun _ => rfl, rfl⟩

theorem put8_readsOnly (r : Reg) (x : Byte × Byte) (s : State) : ReadsOnly s (put8 r x s) := by
  cases r <;> exact readsOnly_cpu s _

theorem put16_readsOnly (r : Reg) (x : Word × Byte) (s : State) : ReadsOnly s (put16 r x s) := by
  cases r <;> exact readsOnly_cpu s _

theorem transfer_readsOnly (r : Reg) (v : Word) (s : State) : ReadsOnly s (transfer r v s) := by
  unfold transfer
  split
  · exact put8_readsOnly r _ s
  · exact put16_readsOnly r _ s

theorem regAlone_readsOnly (f : Alu) (r : Reg) (s : State) : ReadsOnly s (regAlone f r s) := by
  unfold regAlone
  split
  · exact put8_readsOnly r _ s
  · exact put16_readsOnly r _ s

section Reads

variable {s t : State}

theorem regOperand_readsOnly {f : Alu} {r : Reg} {am : Variant} (h : regOperand f r am s = .ok t) : ReadsOnly s t := by
  rcases regOperand_cases h with ⟨-, v, u, hl, rfl⟩ | ⟨-, v, u, hl, rfl⟩
  · exact (loadsByte_loaded hl).readsOnly.trans (put8_readsOnly r _ u)
  · exact (loadsWord_loaded hl).readsOnly.trans (put16_readsOnly r _ u)

theorem popb_readsOnly {v : Byte} (h : popb s = .ok (v, t)) : ReadsOnly s t := by
  obtain ⟨k, -, m, d⟩ := popb_keeps h
  exact ⟨k, m, d⟩

theorem popw_readsOnly {v : Word} (h : popw s = .ok (v, t)) : ReadsOnly s t := by
  obtain ⟨k, -, m, d⟩ := popw_keeps h
  exact ⟨k, m, d⟩

theorem pullReg_readsOnly {r : Reg} (h : pullReg r s = .ok t) : ReadsOnly s t := by
  unfold pullReg at h
  split at h
  · obtain ⟨v, u, hu, hk⟩ := readThen_eq_ok.mp h
    cases hk
    exact (popb_readsOnly hu).trans (put8_readsOnly r _ u)
  · obtain ⟨v, u, hu, hk⟩ := readThen_eq_ok.mp h
    cases hk
    exact (popw_readsOnly hu).trans (put16_readsOnly r _ u)

theorem popReturn_readsOnly {x : Byte × Word} (h : popReturn s = .ok (x, t)) : ReadsOnly s t := by
  cases ho : s.cfg.callStackOrder
  · rw [popReturn_onTop ho] at h
    obtain ⟨b, u, hu, hk⟩ := readThen_eq_ok.mp h
    obtain ⟨a, w, hw, hk⟩ := readThen_eq_ok.mp hk
    cases hk
    exact (popb_readsOnly hu).trans (popw_readsOnly hw)
  · rw [popReturn_deepest ho] at h
    obtain ⟨a, u, hu, hk⟩ := readThen_eq_ok.mp h
    obtain ⟨b, w, hw, hk⟩ := readThen_eq_ok.mp hk
    cases hk
    exact (popw_readsOnly hu).trans (popb_readsOnly hw)

theorem returnFromInterrupt_readsOnly (h : returnFromInterrupt s = .ok t) : ReadsOnly s t := by
  obtain ⟨k, m, d, -⟩ := returnFromInterrupt_keeps h
  exact ⟨k, m, d⟩

/-- A read instruction. -/
theorem over_readsOnly {m : Mnemonic} {op : Byte} {am : Variant} (hr : m.isRead = true)
    (h : overVariant m op am s = some (.ok t)) : ReadsOnly s t := by
  cases m <;> cases hr <;> simp only [overVariant, Option.some.injEq] at h
  case ADC | SBC =>
    simp only [adc, sbc] at h
    split at h
    · cases h
    · exact regOperand_readsOnly h
  case BIT => split at h <;> exact regOperand_readsOnly h
  all_goals exact regOperand_readsOnly h

/-- An instruction without an operand that pushes nothing. -/
theorem implied_readsOnly {m : Mnemonic} (hp : m.isPush = false) (h : implied m s = some (.ok t)) : ReadsOnly s t := by
  cases m <;> simp only [implied, Option.some.injEq, reduceCtorEq] at h
  case PHA | PHX | PHY | PHP | PHB | PHK | PHD => cases hp
  case PLA | PLX | PLY => exact pullReg_readsOnly h
  case PLP | PLB =>
    obtain ⟨v, u, hu, hk⟩ := readThen_eq_ok.mp h
    cases hk
    exact (popb_readsOnly hu).trans (readsOnly_cpu u _)
  case PLD =>
    obtain ⟨v, u, hu, hk⟩ := readThen_eq_ok.mp h
    cases hk
    exact (popw_readsOnly hu).trans (readsOnly_cpu u _)
  case RTL =>
    obtain ⟨x, u, hu, hk⟩ := readThen_eq_ok.mp h
    cases hk
    exact (popReturn_readsOnly hu).trans (readsOnly_cpu u _)
  case RTI => exact returnFromInterrupt_readsOnly h
  case TAX | TAY | TXA | TYA | TXY | TYX | TSX => cases h; exact transfer_readsOnly _ _ s
  case ASL | LSR | ROL | ROR | INC | DEC | INX | INY | DEX | DEY => cases h; exact regAlone_readsOnly _ _ s
  case XCE => cases h; split <;> exact readsOnly_cpu s _
  all_goals cases h; exact readsOnly_cpu s _

/-- Every instruction that is no store, push or read-modify-write of memory. -/
theorem exec_readsOnly {i : Instr} (h : exec i s = .next t) (hi : i.writesMemory = false) : ReadsOnly s t := by
  simp only [Instr.writesMemory, Bool.or_eq_false_iff, Bool.and_eq_false_iff] at hi
  obtain ⟨⟨hstore, hpush⟩, hmodify⟩ := hi
  rcases exec_cases i s with ⟨am, r, hv, hm, he⟩ | ⟨r, -, hm, he⟩ | ⟨k, c, -, -, he⟩ | ⟨k, rfl⟩ | ⟨k, rfl⟩
    | ⟨b, a, rfl⟩ | ⟨b, a, rfl⟩
  case inl =>
    rw [he, finish_eq_next] at h
    rcases family_of_overVariant hm with hr | hs | hx
    · exact over_readsOnly hr (h ▸ hm)
    · simp [hs] at hstore
    · simp [hx, hv] at hmodify
  case inr.inl => rw [he, finish_eq_next] at h; exact implied_readsOnly hpush (h ▸ hm)
  case inr.inr.inl =>
    rw [he, finish_eq_next] at h
    cases h
    split <;> exact readsOnly_cpu s _
  case inr.inr.inr.inl =>
    have h := (finish_eq_next (r := rep k s)).mp h
    unfold rep at h
    split at h
    · cases h
    · cases h; exact readsOnly_cpu s _
  case inr.inr.inr.inr.inl =>
    have h := (finish_eq_next (r := sep k s)).mp h
    unfold sep at h
    split at h
    · cases h
    · cases h; exact readsOnly_cpu s _
  case inr.inr.inr.inr.inr.inl =>
    cases (finish_eq_next (r := jml b a s)).mp h
    exact readsOnly_cpu s _
  case inr.inr.inr.inr.inr.inr => cases hpush

end Reads

/-! ### What stores do -/

/-- On a quiet bus, and where none of them starts DMA, only the bytes at these addresses may have changed. -/
structure StoresWithin (xs : List (Byte × Word)) (s t : State) : Prop where
  cfg   : t.cfg = s.cfg
  bytes : s.Quiet → (∀ x ∈ xs, s.NoDma x.1 x.2) →
    ∀ b o, (∀ x ∈ xs, s.Apart b o x.1 x.2) → t.byteAt b o = s.byteAt b o

theorem StoresWithin.trans {xs ys : List (Byte × Word)} {s t u : State} (h : StoresWithin xs s t)
    (k : StoresWithin ys t u) : StoresWithin (xs ++ ys) s u where
  cfg := k.cfg.trans h.cfg
  bytes hq hd b o ha := by
    simp only [List.forall_mem_append] at hd ha
    calc u.byteAt b o = t.byteAt b o :=
          k.bytes ((quiet_congr h.cfg).mpr hq) (fun x hx => (noDma_congr h.cfg).mpr (hd.2 x hx)) b o
            fun x hx => (apart_congr h.cfg).mpr (ha.2 x hx)
      _ = s.byteAt b o := h.bytes hq hd.1 b o ha.1

theorem ReadsOnly.within {s t : State} (h : ReadsOnly s t) : StoresWithin [] s t where
  cfg := h.clock.cfg
  bytes hq _ b o _ := State.byteAt_congr h.clock.cfg (h.sameMem hq) b o

theorem ReadsOnly.thenStores {xs : List (Byte × Word)} {s t u : State} (h : ReadsOnly s t)
    (k : StoresWithin xs t u) : StoresWithin xs s u := h.within.trans k

theorem StoresWithin.thenReads {xs : List (Byte × Word)} {s t u : State} (h : StoresWithin xs s t)
    (k : ReadsOnly t u) : StoresWithin xs s u := List.append_nil xs ▸ h.trans k.within

section Stores

variable {s t : State} {b : Byte} {o : Word}

theorem busStore_within {v : Byte} (h : busStore b o v s = .ok t) : StoresWithin [(b, o)] s t where
  cfg := (busStore_touched h).clock.cfg
  bytes hq hd _ _ ha := busStore_frame h hq (hd (b, o) List.mem_cons_self) (ha (b, o) List.mem_cons_self)

theorem busStoreWord_within {v : Word} (h : busStoreWord b o v s = .ok t) :
    StoresWithin [(b, o), (b, o + 1)] s t := by
  obtain ⟨u, hu, ht⟩ := busStoreWord_eq_ok.mp h
  exact (busStore_within hu).trans (busStore_within ht)

theorem modifyByte_within {f : Alu} (h : modifyByte f b o s = .ok t) : StoresWithin [(b, o)] s t := by
  obtain ⟨v, u, hu, hk⟩ := readThen_eq_ok.mp h
  obtain ⟨w, hw, hk⟩ := writeThen_eq_ok.mp hk
  cases hk
  exact ((busLoad_loaded hu).readsOnly.thenStores (busStore_within hw)).thenReads (readsOnly_cpu w _)

theorem modifyWord_within {f : Alu} (h : modifyWord f b o s = .ok t) : StoresWithin [(b, o), (b, o + 1)] s t := by
  obtain ⟨v, u, hu, hk⟩ := readThen_eq_ok.mp h
  obtain ⟨w, hw, hk⟩ := writeThen_eq_ok.mp hk
  cases hk
  exact ((busLoadWord_loaded hu).readsOnly.thenStores (busStoreWord_within hw)).thenReads (readsOnly_cpu w _)

/-- The bytes an access at this address reaches, by its width. -/
def accessBytes (narrow : Bool) (b : Byte) (o : Word) : List (Byte × Word) :=
  if narrow then [(b, o)] else [(b, o), (b, o + 1)]

theorem forall_mem_accessBytes {narrow : Bool} {p : Byte × Word → Prop} :
    (∀ x ∈ accessBytes narrow b o, p x) ↔ p (b, o) ∧ (narrow = false → p (b, o + 1)) := by
  cases narrow <;> simp [accessBytes]

/-- A store or a read-modify-write reaches the bytes at its effective address. -/
theorem exec_within_access {i : Instr} {am : Variant} {u : State} (hv : i.variant? = some am)
    (hi : i.mnemonic.isStore = true ∨ i.mnemonic.isModify = true) (ha : address am s = .ok ((b, o), u))
    (h : exec i s = .next t) : StoresWithin (accessBytes (i.mnemonic.narrow s) b o) s t := by
  have he := address_eq_ok.mp ha
  refine (address_loaded ha).readsOnly.thenStores ?_
  rcases hi with hs | hm
  · cases hn : i.mnemonic.narrow s
    · rw [exec_store_word hv hs hn, finish_eq_next, storew_of_effAddr he] at h
      exact busStoreWord_within (checkWord_eq_ok.mp h).2
    · rw [exec_store_byte hv hs hn, finish_eq_next, storeb_of_effAddr he] at h
      exact busStore_within h
  · obtain ⟨f, -, hf⟩ := exec_modify s hv hm
    rw [hf, finish_eq_next] at h
    rw [narrow_modify hm]
    cases hn : s.m8
    · rw [readModifyWrite_wide hn he] at h
      exact modifyWord_within (checkWord_eq_ok.mp h).2
    · rw [readModifyWrite_narrow hn he] at h
      exact modifyByte_within h

/-! ### What pushes do -/

/-- The bytes the next `n` pushes store to. -/
def stackBytes (n : Nat) (s : State) : List (Byte × Word) :=
  (pushOffsets s.cpu.e n s.cpu.s).map (Prod.mk 0x00)

theorem pushb_within {v : Byte} (h : pushb v s = .ok t) : StoresWithin (stackBytes 1 s) s t := by
  obtain ⟨u, hu, rfl⟩ := pushb_eq_ok.mp h
  exact (busStore_within hu).thenReads (readsOnly_cpu u _)

/-- A push, then `n` more. -/
theorem pushb_then_within {v : Byte} {u : State} {n : Nat} (h : pushb v s = .ok t)
    (k : StoresWithin (stackBytes n t) t u) : StoresWithin (stackBytes (n + 1) s) s u := by
  have bytes : stackBytes (n + 1) s = stackBytes 1 s ++ stackBytes n t := by
    simp only [stackBytes, (pushb_keeps h).2, pushOffsets, List.map_cons, List.map_nil, List.cons_append,
      List.nil_append]
  exact bytes ▸ (pushb_within h).trans k

theorem pushw_then_within {v : Word} {u : State} {n : Nat} (h : pushw v s = .ok t)
    (k : StoresWithin (stackBytes n t) t u) : StoresWithin (stackBytes (n + 2) s) s u := by
  obtain ⟨w, hw, ht⟩ := pushw_eq_ok.mp h
  exact pushb_then_within hw (pushb_then_within ht k)

theorem pushw_within {v : Word} (h : pushw v s = .ok t) : StoresWithin (stackBytes 2 s) s t := by
  obtain ⟨w, hw, ht⟩ := pushw_eq_ok.mp h
  exact pushb_then_within hw (pushb_within ht)

theorem pushReg_within {r : Reg} (h : pushReg r s = .ok t) :
    StoresWithin (stackBytes (if s.narrow r then 1 else 2) s) s t := by
  unfold pushReg at h
  split at h <;> rename_i hn
  · rw [if_pos hn]; exact pushb_within h
  · rw [if_neg hn]; exact pushw_within h

theorem pushReturn_within {ra : Word} (h : pushReturn ra s = .ok t) : StoresWithin (stackBytes 3 s) s t := by
  cases ho : s.cfg.callStackOrder
  · rw [pushReturn_onTop ho] at h
    obtain ⟨u, hu, ht⟩ := writeThen_eq_ok.mp h
    exact pushw_then_within hu (pushb_within ht)
  · rw [pushReturn_deepest ho] at h
    obtain ⟨u, hu, ht⟩ := writeThen_eq_ok.mp h
    exact pushb_then_within hu (pushw_within ht)

/-- A push or a call reaches the bytes it pushes. -/
theorem exec_within_stack {i : Instr} (hi : i.mnemonic.isPush = true) (h : exec i s = .next t) :
    StoresWithin (stackBytes (i.pushes s) s) s t := by
  cases i <;> cases hi
  case pha | phx | phy => exact pushReg_within (finish_eq_next.mp h)
  case php | phb | phk => exact pushb_within (finish_eq_next.mp h)
  case phd => exact pushw_within (finish_eq_next.mp h)
  case jsl b a =>
    rw [exec_jsl, finish_eq_next] at h
    obtain ⟨u, hu, hk⟩ := writeThen_eq_ok.mp h
    cases hk
    exact (pushReturn_within hu).thenReads (readsOnly_cpu u _)

end Stores

/-- Settles O52: reads leave memory, stores and read-modify-writes reach the bytes at their address, pushes those below
S. -/
theorem memoryFrame : Obligations.MemoryFrame := by
  refine ⟨?reads, ?stores, ?pushes⟩
  case reads =>
    intro i s t h hi
    have reads := exec_readsOnly h hi
    exact ⟨fun hq b o => reads.within.bytes hq (by simp) b o (by simp), reads.dma⟩
  case stores =>
    intro i am s u t b o hq h hv hi ha hd hd' b' o' hb hb'
    exact (exec_within_access hv hi ha h).bytes hq (forall_mem_accessBytes.mpr ⟨hd, hd'⟩) b' o'
      (forall_mem_accessBytes.mpr ⟨hb, hb'⟩)
  case pushes =>
    intro i s t hq h hi hd b o ha
    exact (exec_within_stack hi h).bytes hq (List.forall_mem_map.mpr hd) b o (List.forall_mem_map.mpr ha)

end Sys2Proof.Machine
end

section
/-! PROOFS. The decoder and the encoder (30 R90 to R102): each cell of the opcode map read the other way round, the
illegal opcodes, and the length of an instruction. -/

namespace Sys2Proof

/-! ### The bytes a form reads -/

/-- Whatever operands a cell of the map is given, the instruction it builds has this opcode byte and these operands for
its bytes, and is well-formed wherever its immediate fits (30 R93, R96, R97). -/
def OpForm.Encodes (op : Byte) : OpForm → Prop
  | .none i => encode i = [op] ∧ ∀ m8 x8, i.wf m8 x8 = true
  | .byte f => ∀ d, encode (f d) = [op, d] ∧ ∀ m8 x8, (f d).wf m8 x8 = true
  | .word f => ∀ a, encode (f a) = [op, lo a, hi a] ∧ ∀ m8 x8, (f a).wf m8 x8 = true
  | .long f => ∀ b a, encode (f b a) = [op, lo a, hi a, b] ∧ ∀ m8 x8, (f b a).wf m8 x8 = true
  | .immM f => ∀ v, encode (f v) = op :: v.variant.bytes ∧ ∀ m8 x8, (f v).wf m8 x8 = immFits m8 (some v.variant)
  | .immX f => ∀ v, encode (f v) = op :: v.variant.bytes ∧ ∀ m8 x8, (f v).wf m8 x8 = immFits x8 (some v.variant)

/-- Every cell of the map encodes under the byte that numbers it (30 R99): one case per byte, an illegal one having no
cell, closed by the number of operand fields. -/
theorem opForm_encodes_ofNat {n : Nat} (hn : n < 256) {f : OpForm} (h : opForm (BitVec.ofNat 8 n) = some f) :
    f.Encodes (BitVec.ofNat 8 n) := by
  interval_cases n <;> cases h <;> first
    | exact ⟨rfl, fun _ _ => rfl⟩
    | exact fun _ => ⟨rfl, fun _ _ => rfl⟩
    | exact fun _ _ => ⟨rfl, fun _ _ => rfl⟩

theorem opForm_encodes {op : Byte} {f : OpForm} (h : opForm op = some f) : f.Encodes op := by
  have number : BitVec.ofNat 8 op.toNat = op := by simp
  exact number ▸ opForm_encodes_ofNat op.isLt (number.symm ▸ h)

/-- An immediate taken from bytes is the front of them and has the width asked for (30 R97). -/
theorem takeImm_eq_some {narrow : Bool} {f : Imm → Instr} {bs rest : List Byte} {i : Instr}
    (h : takeImm narrow f bs = some (i, rest)) :
    ∃ v, i = f v ∧ bs = v.variant.bytes ++ rest ∧ immFits narrow (some v.variant) = true := by
  match narrow, bs, h with
  | true, b :: _, rfl => exact ⟨.imm8 b, rfl, rfl, rfl⟩
  | false, b :: b' :: _, rfl => exact ⟨.imm16 (word b' b), rfl, by simp [Imm.variant, Variant.bytes], rfl⟩

/-- What a cell takes from bytes is the encoding of the instruction it answers, which is well-formed. -/
theorem OpForm.Encodes.of_take {op : Byte} {f : OpForm} (h : f.Encodes op) {m8 x8 : Bool} {bs rest : List Byte}
    {i : Instr} (ht : f.take m8 x8 bs = some (i, rest)) : op :: bs = encode i ++ rest ∧ i.wf m8 x8 = true := by
  cases f with
  | none j =>
    obtain ⟨rfl, rfl⟩ := Prod.mk.inj (Option.some.inj ht)
    exact ⟨by rw [h.1]; rfl, h.2 m8 x8⟩
  | byte g =>
    match bs, ht with
    | d :: _, rfl => exact ⟨by rw [(h d).1]; rfl, (h d).2 m8 x8⟩
  | word g =>
    match bs, ht with
    | l :: u :: _, rfl => exact ⟨by simp [(h (Sys2Proof.word u l)).1], (h _).2 m8 x8⟩
  | long g =>
    match bs, ht with
    | l :: u :: b :: _, rfl => exact ⟨by simp [(h b (Sys2Proof.word u l)).1], (h b _).2 m8 x8⟩
  | immM g =>
    obtain ⟨v, rfl, rfl, fits⟩ := takeImm_eq_some ht
    exact ⟨by rw [(h v).1]; rfl, ((h v).2 m8 x8).trans fits⟩
  | immX g =>
    obtain ⟨v, rfl, rfl, fits⟩ := takeImm_eq_some ht
    exact ⟨by rw [(h v).1]; rfl, ((h v).2 m8 x8).trans fits⟩

/-- Everything the decoder can answer: its opcode byte has a cell, which takes the operand bytes. -/
theorem decode_eq_ok {m8 x8 : Bool} {bytes : List Byte} {r : Instr × List Byte} :
    decode m8 x8 bytes = .ok r ↔ ∃ op bs f, bytes = op :: bs ∧ opForm op = some f ∧ f.take m8 x8 bs = some r := by
  cases bytes with
  | nil => simp [decode]
  | cons op bs =>
    simp only [decode, List.cons.injEq]
    cases hf : opForm op with
    | none => simp [hf]
    | some f => cases ht : f.take m8 x8 bs <;> simp [hf, ht]

/-- What the decoder reads is the encoding of a well-formed instruction, then the rest (30 R90, R97). -/
theorem eq_encode_of_decode {m8 x8 : Bool} {bytes rest : List Byte} {i : Instr}
    (h : decode m8 x8 bytes = .ok (i, rest)) : bytes = encode i ++ rest ∧ i.wf m8 x8 = true := by
  obtain ⟨op, bs, f, rfl, hf, ht⟩ := decode_eq_ok.mp h
  exact (opForm_encodes hf).of_take ht

/-! ### Illegal opcodes -/

/-- The listed bytes are those without a cell on the map (30 R101). -/
theorem mem_illegalOpcodes_iff {op : Byte} : op ∈ illegalOpcodes ↔ opForm op = none := by
  have listed : ∀ op ∈ illegalOpcodes, opForm op = none := List.map_eq_replicate_iff.mp rfl
  have complete : ∀ op : Byte, opForm op = none → op ∈ illegalOpcodes := by decide
  exact ⟨listed op, complete op⟩

/-- No instruction's opcode byte is one of them. -/
theorem opcode_not_illegal (i : Instr) : i.opcode ∉ illegalOpcodes := by
  obtain ⟨f, hf, -⟩ := opForm_opcode i
  simp [mem_illegalOpcodes_iff, hf]

/-- The decoder rejects a byte without a cell, whatever follows it. -/
theorem decode_illegal {op : Byte} (h : opForm op = none) (m8 x8 : Bool) (rest : List Byte) :
    decode m8 x8 (op :: rest) = .error (.illegalOpcode op) := by
  simp only [decode, h]

/-! ### Lengths -/

theorem immediate_length {narrow : Bool} {v : Imm} (h : immFits narrow (some v.variant) = true) :
    v.variant.bytes.length + 1 = if narrow then 2 else 3 := by
  rw [bytes_length_of_immFits h]
  cases narrow <;> rfl

/-- A well-formed instruction is as long as its format says (30 R98): only an immediate's length depends on the
widths. -/
theorem encode_length {i : Instr} {m8 x8 : Bool} (hw : i.wf m8 x8 = true) :
    (encode i).length = i.format.bytes m8 x8 := by
  cases i with
  | ldaImm v | adcImm v | sbcImm v | andImm v | oraImm v | eorImm v | cmpImm v | bitImm v => exact immediate_length hw
  | ldxImm v | ldyImm v | cpxImm v | cpyImm v => exact immediate_length hw
  | _ => rfl

/-- Three bytes are enough for any operand (30 R90). -/
theorem OpForm.take_three (f : OpForm) (m8 x8 : Bool) (b1 b2 b3 : Byte) :
    ∃ i rest, f.take m8 x8 [b1, b2, b3] = some (i, rest) := by
  cases f with
  | immM g => cases m8 <;> exact ⟨_, _, rfl⟩
  | immX g => cases x8 <;> exact ⟨_, _, rfl⟩
  | _ => exact ⟨_, _, rfl⟩

/-- A cell stands for an instruction with its opcode byte, whose operand it asks for (30 R97, R98): the one it builds
from zero bytes. -/
theorem exists_instr_of_opForm {op : Byte} {f : OpForm} (hf : opForm op = some f) (m8 x8 : Bool) :
    ∃ i : Instr, i.opcode = op ∧ i.wf m8 x8 = true ∧ 1 + f.operandBytes m8 x8 = (encode i).length := by
  obtain ⟨i, rest, ht⟩ := f.take_three m8 x8 0x00 0x00 0x00
  obtain ⟨hbytes, hw⟩ := (opForm_encodes hf).of_take ht
  obtain rfl : op = i.opcode := (List.cons.inj hbytes).1
  obtain ⟨g, hg, builds⟩ := opForm_opcode i
  obtain rfl : f = g := Option.some.inj (hf.symm.trans hg)
  exact ⟨i, rfl, hw, by rw [(builds.reads hw []).2, Nat.add_comm]; rfl⟩

end Sys2Proof

namespace Sys2Proof.Machine

/-- Settles O2: the cell of the opcode byte takes the operand bytes back. -/
theorem decodeReadsBackEncode : Obligations.DecodeReadsBackEncode :=
  fun _ _ _ rest hw => decode_encode hw rest

/-- Settles O3: every cell of the map encodes what it takes. -/
theorem encodeReadsBackDecode : Obligations.EncodeReadsBackDecode :=
  fun _ _ _ _ _ h => eq_encode_of_decode h

/-- Settles O4: the listed bytes have no cell, so neither the decoder nor the fetch finds an instruction. -/
theorem illegalOpcodesTrap : Obligations.IllegalOpcodesTrap := by
  refine ⟨rfl, by decide, fun _ => mem_illegalOpcodes_iff, ?table, fun op m8 x8 rest h => ?decoder, ?step⟩
  case table =>
    intro op
    rw [defaultOpTable_get, defaultOpRow]
    cases hf : opForm op <;> simp [mem_illegalOpcodes_iff, hf]
  case decoder => exact decode_illegal (mem_illegalOpcodes_iff.mp h) m8 x8 rest
  case step =>
    intro op s t hr htable h hload
    have hf := mem_illegalOpcodes_iff.mp h
    have hrow : s.clearDma.opRow op = none := by
      rw [State.opRow, State.clearDma_cfg, htable, defaultOpTable_get, defaultOpRow, hf]
    rw [step_ready hr, iteration, fetchInstr_illegal (s := s.clearDma) (by rw [hrow]; rfl) hload]
    rfl

/-- Settles O5: by format for the instructions, by cell for the decoder. -/
theorem lengthByFormat : Obligations.LengthByFormat :=
  ⟨fun _ _ _ hw => encode_length hw, fun _ _ m8 x8 hf => exists_instr_of_opForm hf m8 x8, opcode_not_illegal⟩

/-- Settles O1: the decoder run on each of the twelve words. -/
theorem specWordsDecode : Obligations.SpecWordsDecode :=
  ⟨rfl, rfl, rfl, rfl, rfl, rfl, rfl, rfl, rfl, rfl, rfl, rfl⟩

end Sys2Proof.Machine
end

section
/-! PROOFS. The three usage traps (40 R130, R132 to R135, R137): which operations can raise them, and that a
well-formed instruction uses none of those so. -/

namespace Sys2Proof.Machine

/-- The traps of a wrong use of an immediate (40 R137). -/
def Fault.isUsage : Fault → Bool
  | .addressOfImmediate _ | .immediateWidthMismatch _ | .storeToImmediate _ => true
  | _ => false

/-- An operation that, whatever it answers, raises none of them. -/
def NoUsage {β : Type} (r : Except Fault β) : Prop := ∀ f, r = .error f → f.isUsage = false

theorem noUsage_ok {β : Type} (x : β) : NoUsage (.ok x) := nofun

theorem noUsage_error {β : Type} {f : Fault} (h : f.isUsage = false) : NoUsage (.error f : Except Fault β) := by
  rintro _ ⟨⟩
  exact h

theorem NoUsage.thenRead {α β : Type} {r : Except Fault (α × State)} {k : α → State → Except Fault β} (h : NoUsage r)
    (hk : ∀ a s, NoUsage (k a s)) : NoUsage (readThen r k) := by
  rcases r with f | ⟨a, s⟩
  · exact noUsage_error (h f rfl)
  · exact hk a s

theorem NoUsage.thenWrite {β : Type} {r : Except Fault State} {k : State → Except Fault β} (h : NoUsage r)
    (hk : ∀ s, NoUsage (k s)) : NoUsage (writeThen r k) := by
  rcases r with f | s
  · exact noUsage_error (h f rfl)
  · exact hk s

/-- A check that raises another trap, then the rest. -/
theorem noUsage_unless {β : Type} {c : Prop} [Decidable c] {f : Fault} {k : Except Fault β} (hf : f.isUsage = false)
    (hk : NoUsage k) : NoUsage (if c then .error f else k) := by
  split
  · exact noUsage_error hf
  · exact hk

theorem checkWord_noUsage {β : Type} {k : Except Fault β} (h : NoUsage k) (b : Byte) (o : Word) :
    NoUsage (checkWord b o k) := noUsage_unless rfl h

/-! ### The bus and the stack -/

theorem loadTrapFault_not_usage (t : LoadTrap) (k : Access) (b : Byte) (o : Word) :
    (loadTrapFault t k b o).isUsage = false := by cases t <;> rfl

theorem storeTrapFault_not_usage (t : StoreTrap) (b : Byte) (o : Word) : (storeTrapFault t b o).isUsage = false := by
  cases t with
  | bus t => exact loadTrapFault_not_usage t .write b o
  | _ => rfl

theorem deviceLoad_noUsage (b : Byte) (o : Word) (s : State) : NoUsage (deviceLoad b o s) := by
  unfold deviceLoad
  split
  · exact noUsage_error (loadTrapFault_not_usage _ _ b o)
  · exact noUsage_ok _

theorem deviceStore_noUsage (b : Byte) (o : Word) (v : Byte) (s : State) : NoUsage (deviceStore b o v s) := by
  simp only [deviceStore]
  split
  · exact noUsage_error (storeTrapFault_not_usage _ b o)
  · exact noUsage_ok _

theorem busLoad_noUsage (b : Byte) (o : Word) (s : State) : NoUsage (busLoad b o s) := by
  unfold busLoad
  split
  · exact noUsage_error rfl
  · split
    · split
      case h_4 => exact deviceLoad_noUsage b o s
      all_goals exact noUsage_ok _
    · exact noUsage_error rfl

theorem busStorePlain_noUsage (b : Byte) (o : Word) (v : Byte) (s : State) : NoUsage (busStorePlain b o v s) := by
  unfold busStorePlain
  split
  · exact noUsage_error rfl
  · split
    · split
      case h_4 => exact deviceStore_noUsage b o v s
      all_goals exact noUsage_ok _
    · exact noUsage_error rfl

theorem dmaAccess_noUsage (x : DmaAccess) (s : State) : NoUsage (dmaAccess x s) := by
  cases x with
  | load b o => exact (busLoad_noUsage b o s).thenRead fun _ _ => noUsage_ok _
  | store b o v => exact busStorePlain_noUsage b o v s
  | device w => exact noUsage_ok _

theorem dmaAccesses_noUsage (xs : List DmaAccess) (s : State) : NoUsage (dmaAccesses xs s) := by
  induction xs generalizing s with
  | nil => exact noUsage_ok _
  | cons x xs ih => exact (dmaAccess_noUsage x s).thenWrite ih

theorem runDma_noUsage (mask : Byte) (s : State) : NoUsage (runDma mask s) :=
  (dmaAccesses_noUsage _ _).thenWrite fun _ => noUsage_ok _

theorem busStore_noUsage (b : Byte) (o : Word) (v : Byte) (s : State) : NoUsage (busStore b o v s) := by
  unfold busStore
  split
  · exact noUsage_error rfl
  · split
    · split
      case h_2 => exact runDma_noUsage v s
      case h_4 => exact deviceStore_noUsage b o v s
      all_goals exact noUsage_ok _
    · exact noUsage_error rfl

theorem busLoadWord_noUsage (b : Byte) (o : Word) (s : State) : NoUsage (busLoadWord b o s) :=
  (busLoad_noUsage b o s).thenRead fun _ t => (busLoad_noUsage b (o + 1) t).thenRead fun _ _ => noUsage_ok _

theorem busStoreWord_noUsage (b : Byte) (o v : Word) (s : State) : NoUsage (busStoreWord b o v s) :=
  (busStore_noUsage b o (lo v) s).thenWrite fun t => busStore_noUsage b (o + 1) (hi v) t

theorem pushb_noUsage (v : Byte) (s : State) : NoUsage (pushb v s) :=
  (busStore_noUsage 0x00 s.cpu.s v s).thenWrite fun _ => noUsage_ok _

theorem pushw_noUsage (v : Word) (s : State) : NoUsage (pushw v s) :=
  (pushb_noUsage (hi v) s).thenWrite (pushb_noUsage (lo v))

theorem popb_noUsage (s : State) : NoUsage (popb s) := busLoad_noUsage _ _ _

theorem popw_noUsage (s : State) : NoUsage (popw s) :=
  (popb_noUsage s).thenRead fun _ t => (popb_noUsage t).thenRead fun _ _ => noUsage_ok _

theorem pushReg_noUsage (r : Reg) (s : State) : NoUsage (pushReg r s) := by
  unfold pushReg
  split
  · exact pushb_noUsage _ s
  · exact pushw_noUsage _ s

theorem pullReg_noUsage (r : Reg) (s : State) : NoUsage (pullReg r s) := by
  unfold pullReg
  split
  · exact (popb_noUsage s).thenRead fun _ _ => noUsage_ok _
  · exact (popw_noUsage s).thenRead fun _ _ => noUsage_ok _

theorem pushReturn_noUsage (ra : Word) (s : State) : NoUsage (pushReturn ra s) := by
  cases ho : s.cfg.callStackOrder
  · rw [pushReturn_onTop ho]
    exact (pushw_noUsage ra s).thenWrite fun t => pushb_noUsage _ t
  · rw [pushReturn_deepest ho]
    exact (pushb_noUsage _ s).thenWrite (pushw_noUsage ra)

theorem popReturn_noUsage (s : State) : NoUsage (popReturn s) := by
  cases ho : s.cfg.callStackOrder
  · rw [popReturn_onTop ho]
    exact (popb_noUsage s).thenRead fun _ t => (popw_noUsage t).thenRead fun _ _ => noUsage_ok _
  · rw [popReturn_deepest ho]
    exact (popw_noUsage s).thenRead fun _ t => (popb_noUsage t).thenRead fun _ _ => noUsage_ok _

theorem returnFromInterrupt_noUsage (s : State) : NoUsage (returnFromInterrupt s) := by
  refine (popb_noUsage s).thenRead fun p t => (popw_noUsage (t.setP p)).thenRead fun pc u => ?_
  simp only
  split
  · exact noUsage_ok _
  · exact (popb_noUsage _).thenRead fun _ _ => noUsage_ok _

/-! ### Operands -/

theorem indexLong_noUsage (b : Byte) (a x : Word) (s : State) : NoUsage (indexLong b a x s) :=
  noUsage_unless rfl (noUsage_ok _)

/-- Only an immediate has no address to compute (40 R130). -/
theorem address_noUsage {am : Variant} (h : immediate am = false) (s : State) : NoUsage (address am s) := by
  cases am with
  | imm8 v | imm16 v => cases h
  | absX a => exact noUsage_unless rfl (noUsage_ok _)
  | absLongX b a => exact indexLong_noUsage b a s.xi s
  | indLongY d =>
    exact noUsage_unless rfl <| (busLoad_noUsage _ _ s).thenRead fun _ t => (busLoad_noUsage _ _ t).thenRead
      fun _ u => (busLoad_noUsage _ _ u).thenRead fun _ w => indexLong_noUsage _ _ w.yi w
  | _ => exact noUsage_ok _

/-- What is read as a byte is no immediate, or one of a byte (40 R132). -/
theorem loadb_noUsage {am : Variant} (h : immediate am = true → immFits true (some am) = true) (s : State) :
    NoUsage (loadb am s) := by
  cases hi : immediate am
  · rw [loadb_of_address hi]
    exact (address_noUsage hi s).thenRead fun x t => busLoad_noUsage x.1 x.2 t
  · obtain ⟨v, rfl⟩ := eq_imm8_of_fits (h hi)
    exact noUsage_ok _

/-- The same for a word (40 R133). -/
theorem loadw_noUsage {am : Variant} (h : immediate am = true → immFits false (some am) = true) (s : State) :
    NoUsage (loadw am s) := by
  cases hi : immediate am
  · rw [loadw_of_address hi]
    exact (address_noUsage hi s).thenRead fun x t => checkWord_noUsage (busLoadWord_noUsage x.1 x.2 t) x.1 x.2
  · obtain ⟨v, rfl⟩ := eq_imm16_of_fits (h hi)
    exact noUsage_ok _

theorem storeb_noUsage {am : Variant} (h : immediate am = false) (v : Byte) (s : State) : NoUsage (storeb am v s) := by
  rw [storeb_of_address h]
  exact (address_noUsage h s).thenRead fun x t => busStore_noUsage x.1 x.2 v t

theorem storew_noUsage {am : Variant} (h : immediate am = false) (v : Word) (s : State) : NoUsage (storew am v s) := by
  rw [storew_of_address h]
  exact (address_noUsage h s).thenRead fun x t => checkWord_noUsage (busStoreWord_noUsage x.1 x.2 v t) x.1 x.2

/-! ### The shapes -/

theorem regOperand_noUsage {r : Reg} {am : Variant} {s : State}
    (h : immediate am = true → immFits (s.narrow r) (some am) = true) (f : Alu) : NoUsage (regOperand f r am s) := by
  cases hn : s.narrow r <;> rw [hn] at h
  · rw [regOperand, if_neg (ne_true_of_eq_false hn)]
    exact (loadw_noUsage h s).thenRead fun _ _ => noUsage_ok _
  · rw [regOperand, if_pos hn]
    exact (loadb_noUsage h s).thenRead fun _ _ => noUsage_ok _

theorem readModifyWrite_noUsage {am : Variant} (h : immediate am = false) (f : Alu) (s : State) :
    NoUsage (readModifyWrite f am s) := by
  refine (address_noUsage h s).thenRead fun x t => ?_
  split
  · exact (busLoad_noUsage _ _ t).thenRead fun _ u => (busStore_noUsage _ _ _ u).thenWrite fun _ => noUsage_ok _
  · exact checkWord_noUsage ((busLoadWord_noUsage _ _ t).thenRead fun _ u =>
      (busStoreWord_noUsage _ _ _ u).thenWrite fun _ => noUsage_ok _) _ _

/-! ### Every instruction -/

/-- ADC and SBC with P.d = 1 stop before their operand (42 R171). -/
theorem exec_decimal {i : Instr} {am : Variant} {s : State} (hv : i.variant? = some am)
    (hm : i.mnemonic = .ADC ∨ i.mnemonic = .SBC) (hd : getFlag s.cpu.p .d = true) :
    exec i s = finish (.error (decimalTrap i.opcode am s)) := by
  rcases hm with hm | hm <;> exact exec_over hv (by rw [hm]; exact congrArg some (if_pos hd))

section Over

variable {i : Instr} {am : Variant} {s : State} (hv : i.variant? = some am)
include hv

/-- What a well-formed instruction reads through a variant fits. -/
theorem exec_read_noUsage (hw : i.wf s.m8 s.x8 = true) (hr : i.mnemonic.isRead = true) :
    ∃ r, exec i s = finish r ∧ NoUsage r := by
  by_cases hd : i.mnemonic = .ADC ∨ i.mnemonic = .SBC → getFlag s.cpu.p .d = false
  · obtain ⟨f, hx⟩ := exec_read hv hr hd
    have fits := immFits_of_wf hw hv hr
    exact ⟨_, hx, regOperand_noUsage (narrow_reg (.inl hr) s ▸ fits) f⟩
  · obtain ⟨hm, hd⟩ := Classical.not_imp.mp hd
    exact ⟨_, exec_decimal hv hm (by simpa using hd), noUsage_error rfl⟩

theorem exec_store_noUsage (hs : i.mnemonic.isStore = true) : ∃ r, exec i s = finish r ∧ NoUsage r := by
  have hi := not_immediate_of_writes hv (.inl hs)
  cases hn : i.mnemonic.narrow s
  · exact ⟨_, exec_store_word hv hs hn, storew_noUsage hi _ s⟩
  · exact ⟨_, exec_store_byte hv hs hn, storeb_noUsage hi _ s⟩

theorem exec_modify_noUsage (hm : i.mnemonic.isModify = true) : ∃ r, exec i s = finish r ∧ NoUsage r := by
  obtain ⟨f, -, hx⟩ := exec_modify s hv hm
  exact ⟨_, hx, readModifyWrite_noUsage (not_immediate_of_writes hv (.inr hm)) f s⟩

end Over

/-- An instruction without an operand: at most pushes and pops. -/
theorem implied_noUsage {m : Mnemonic} {s : State} {r : Except Fault State} (hm : implied m s = some r) :
    NoUsage r := by
  cases m <;> cases hm
  case PHA | PHX | PHY => exact pushReg_noUsage _ s
  case PHP | PHB | PHK => exact pushb_noUsage _ s
  case PHD => exact pushw_noUsage _ s
  case PLA | PLX | PLY => exact pullReg_noUsage _ s
  case PLP | PLB => exact (popb_noUsage s).thenRead fun _ _ => noUsage_ok _
  case PLD => exact (popw_noUsage s).thenRead fun _ _ => noUsage_ok _
  case RTL => exact (popReturn_noUsage s).thenRead fun _ _ => noUsage_ok _
  case RTI => exact returnFromInterrupt_noUsage s
  all_goals exact noUsage_ok _

/-- A well-formed instruction is an operation that raises no usage trap: a read, a store or a modification through its
variant, what it does to the stack, or nothing that reaches the bus. -/
theorem exec_noUsage {i : Instr} {s : State} (hw : i.wf s.m8 s.x8 = true) : ∃ r, exec i s = finish r ∧ NoUsage r := by
  rcases exec_cases i s with ⟨am, r, hv, hm, -⟩ | ⟨r, -, hm, hx⟩ | ⟨k, c, -, -, hx⟩ | ⟨k, rfl⟩ | ⟨k, rfl⟩
    | ⟨b, a, rfl⟩ | ⟨b, a, rfl⟩
  case inl =>
    rcases family_of_overVariant hm with hr | hs | hm
    · exact exec_read_noUsage hv hw hr
    · exact exec_store_noUsage hv hs
    · exact exec_modify_noUsage hv hm
  case inr.inl => exact ⟨r, hx, implied_noUsage hm⟩
  case inr.inr.inl => exact ⟨_, hx, noUsage_ok _⟩
  case inr.inr.inr.inl => exact ⟨rep k s, rfl, noUsage_unless rfl (noUsage_ok _)⟩
  case inr.inr.inr.inr.inl => exact ⟨sep k s, rfl, noUsage_unless rfl (noUsage_ok _)⟩
  case inr.inr.inr.inr.inr.inl => exact ⟨jml b a s, rfl, noUsage_ok _⟩
  case inr.inr.inr.inr.inr.inr =>
    exact ⟨_, exec_jsl b a s, (pushReturn_noUsage _ s).thenWrite fun _ => noUsage_ok _⟩

/-- Settles O22: every immediate has the width its instruction reads, and no other operand has a usage trap. -/
theorem usageTrapsAreUnreachable : Obligations.UsageTrapsAreUnreachable := by
  intro i s am hw
  obtain ⟨r, hx, hr⟩ := exec_noUsage hw
  have never : ∀ f : Fault, f.isUsage = true → exec i s ≠ .fault f := fun f hf he =>
    ne_true_of_eq_false (hr f (finish_eq_fault.mp (hx.symm.trans he))) hf
  exact ⟨never _ rfl, never _ rfl, never _ rfl⟩

end Sys2Proof.Machine
end

section
/-! PROOFS. The address of an operand, or its trap (40 R122 to R130). -/

namespace Sys2Proof.Machine

theorem address_absX_overflow {a : Word} {s : State} (h : a.toNat + s.xi.toNat > 0xFFFF) :
    address (.absX a) s = .error (.indexOverflow16 s.cpu.dbr a s.xi) := if_pos h

theorem indexLong_overflow {k : Byte} {a x : Word} (h : k.toNat * 65536 + a.toNat + x.toNat ≥ 0x1000000) (s : State) :
    indexLong k a x s = .error (.addressOverflow24 k a x) := if_pos h

section Pointer

variable {d : Byte} {p : Word} {s : State} (hp : p.toNat = (s.cpu.d.toNat + d.toNat) % 65536)
include hp

theorem address_indLongY_crosses (h : p.toNat > 0xFFFD) : address (.indLongY d) s = .error (.pointerCrossesBank p) := by
  obtain rfl := eq_directOffset hp
  exact if_pos h

/-- Inside bank 0 the pointer's three bytes are loaded in order of address, then Y is added (40 R129). -/
theorem address_indLongY_loads (h : p.toNat ≤ 0xFFFD) :
    address (.indLongY d) s =
      readThen (busLoad 0x00 p s) fun l s => readThen (busLoad 0x00 (p + 1) s) fun m s =>
        readThen (busLoad 0x00 (p + 2) s) fun h s => indexLong h (word m l) s.yi s := by
  obtain rfl := eq_directOffset hp
  exact if_neg (Nat.not_lt.mpr h)

end Pointer

/-- Settles O20: `address_eq_ok` gives the effective address, each branch of `address` its trap; of a pointer's three
loads the first that fails is the trap, and after all three a sum past 24 bits. -/
theorem addressesOrTraps : Obligations.AddressesOrTraps := by
  intro s
  refine ⟨fun _ _ _ _ => address_eq_ok.mpr, fun _ => rfl, fun _ => rfl, fun _ => address_absX_overflow,
    fun _ _ h => indexLong_overflow h s, fun d p hp => ⟨address_indLongY_crosses hp, fun hle => ?pointer⟩⟩
  case pointer =>
    rw [address_indLongY_loads hp hle]
    refine ⟨fun f hf => ?_, fun l s1 hl => ⟨fun f hf => ?_, fun m s2 hm => ⟨fun f hf => ?_, fun k s3 hk hsum => ?_⟩⟩⟩
    · rw [hf, readThen_error]
    · rw [hl, readThen_ok, hf, readThen_error]
    · rw [hl, readThen_ok, hm, readThen_ok, hf, readThen_error]
    · have loads := ((busLoad_loaded hl).trans (busLoad_loaded hm)).trans (busLoad_loaded hk)
      rw [hl, readThen_ok, hm, readThen_ok, hk, readThen_ok, State.yi_congr loads.cpu]
      refine indexLong_overflow ?_ s3
      rwa [word_toNat, ← Nat.add_assoc]

end Sys2Proof.Machine
end

section
/-! PROOFS. The branches, and jump, call and return (46 R270 to R283). -/

namespace Sys2Proof.Machine

/-! ### Branches -/

/-- A branch never traps: its target needs no load (46 R271). -/
theorem branch_eq (c : Bool) (r : Byte) (s : State) :
    branch c r s = .ok (if c then s.jump s.cpu.pbr (s.cpu.pc + sext16 r) else s) := rfl

theorem variant_ne_rel (v : Imm) (r : Byte) : v.variant ≠ .rel r := by cases v <;> nofun

/-- Only the nine branches have a displacement. -/
theorem condition_of_rel {i : Instr} {r : Byte} (hv : i.variant? = some (.rel r)) (p : Byte) :
    ∃ c, condition i.mnemonic p = some c := by
  cases i with
  | ldaImm v | ldxImm v | ldyImm v | adcImm v | sbcImm v | andImm v | oraImm v | eorImm v | cmpImm v | cpxImm v
  | cpyImm v | bitImm v => exact absurd (Option.some.inj hv) (variant_ne_rel v r)
  | _ => cases hv <;> exact ⟨_, rfl⟩

/-- The condition a branch tests is the one of its rule (46 R272 to R280). -/
theorem taken_iff_condition {m : Mnemonic} {p : Byte} {c : Bool} (h : condition m p = some c) :
    m.Taken p ↔ c = true := by
  cases m <;> cases h
  case BPL | BVC | BCC | BNE => simp only [Mnemonic.Taken, Bool.not_eq_true']
  case BMI | BVS | BCS | BEQ => exact Iff.rfl
  case BRA => exact iff_of_true trivial rfl

/-- Settles O42: a branch is `branch` under its condition. -/
theorem branchesRun : Obligations.BranchesRun := by
  intro i r s hv
  obtain ⟨c, hc⟩ := condition_of_rel hv s.cpu.p
  rw [exec_branch hv hc, branch_eq, finish_ok, taken_iff_condition hc]
  refine ⟨fun taken o ho => ?_, fun untaken => ?_⟩
  · rw [if_pos taken, (rel_offset_iff _ o r).mp ho]
  · rw [if_neg untaken]

/-! ### Jump, call and return -/

theorem pushesByte_iff {v : Byte} {s t : State} : PushesByte v s t ↔ pushb v s = .ok t := by
  simp only [PushesByte, pushb_eq_ok, spBelow_iff]
  exact exists_congr fun u => ⟨fun ⟨_, hu, hsp, ht⟩ => ⟨hu, hsp ▸ ht⟩, fun ⟨hu, ht⟩ => ⟨_, hu, rfl, ht⟩⟩

theorem pushesWord_iff {v : Word} {s t : State} : PushesWord v s t ↔ pushw v s = .ok t := by
  simp only [PushesWord, pushesByte_iff, pushw_eq_ok, hi_eq_shift, lo_eq_setWidth v]

theorem popsByte_iff {v : Byte} {s t : State} : PopsByte v s t ↔ popb s = .ok (v, t) := by
  simp only [PopsByte, spAbove_iff, exists_eq_left, popb]

theorem popsWord_iff {v : Word} {s t : State} : PopsWord v s t ↔ popw s = .ok (v, t) := by
  simp only [PopsWord, popsByte_iff, popw_eq_ok]
  constructor
  · rintro ⟨l, h, u, hl, hh, e⟩
    exact ⟨l, u, h, hl, hh, eq_word_of_toNat e⟩
  · rintro ⟨l, u, h, hl, hh, rfl⟩
    exact ⟨l, h, u, hl, hh, word_toNat h l⟩

theorem exec_jsl_of_pushReturn {s u : State} (h : pushReturn (s.cpu.pc - 1) s = .ok u) (b : Byte) (a : Word) :
    exec (.jsl b a) s = .next (u.jump b a) := by rw [exec_jsl, h, writeThen_ok, finish_ok]

theorem exec_rtl_of_popReturn {s u : State} {k : Byte} {ra : Word} (h : popReturn s = .ok ((k, ra), u)) :
    exec .rtl s = .next (u.jump k (ra + 1)) := by rw [exec_rtl, h, readThen_ok, finish_ok]

theorem eq_resume_offset {ra pc : Word} (h : pc.toNat = (ra.toNat + 1) % 65536) : pc = ra + 1 := by bv_omega

/-- Settles O43: JSL and RTL are `pushReturn` and `popReturn`, two stack operations by CALL_STACK_ORDER. -/
theorem jumpCallAndReturnRun : Obligations.JumpCallAndReturnRun := by
  intro s t u b k a ra pc
  simp only [pushesByte_iff, pushesWord_iff, popsByte_iff, popsWord_iff]
  refine ⟨rfl, fun hra => ?call, fun hpc => ?ret⟩
  case call =>
    obtain rfl := eq_return_offset hra
    refine ⟨fun ho hw hb => exec_jsl_of_pushReturn ?_ b a, fun ho hb hw => exec_jsl_of_pushReturn ?_ b a⟩
    · rw [pushReturn_onTop ho, hw, writeThen_ok, (pushw_keeps hw).2, hb]
    · rw [pushReturn_deepest ho, hb, writeThen_ok, hw]
  case ret =>
    obtain rfl := eq_resume_offset hpc
    refine ⟨fun ho hb hw => exec_rtl_of_popReturn ?_, fun ho hw hb => exec_rtl_of_popReturn ?_⟩
    · rw [popReturn_onTop ho, hb, readThen_ok, hw, readThen_ok]
    · rw [popReturn_deepest ho, hw, readThen_ok, hb, readThen_ok]

end Sys2Proof.Machine
end

section
/-! PROOFS. Stores (41 R150, R154 to R157). -/

namespace Sys2Proof.Machine

/-- What a store stores, and at which width: its register, or zero. -/
theorem store_source {m : Mnemonic} {s : State} {w : Bool} {v : Word}
    (h : m = .STA ∧ w = s.m8 ∧ v = s.cpu.a ∨ m = .STX ∧ w = s.x8 ∧ v = s.cpu.x ∨
      m = .STY ∧ w = s.x8 ∧ v = s.cpu.y ∨ m = .STZ ∧ w = s.m8 ∧ v = 0x0000) :
    m.isStore = true ∧ m.narrow s = w ∧ (if m = .STZ then 0x0000 else s.reg m.reg) = v := by
  rcases h with ⟨rfl, rfl, rfl⟩ | ⟨rfl, rfl, rfl⟩ | ⟨rfl, rfl, rfl⟩ | ⟨rfl, rfl, rfl⟩ <;> exact ⟨rfl, rfl, rfl⟩

/-- The narrow store stores the low byte of what the wide one stores. -/
theorem store_source_lo (m : Mnemonic) (s : State) :
    (if m = .STZ then 0x00 else lo (s.reg m.reg)) =
      (if m = .STZ then 0x0000 else s.reg m.reg : Word).setWidth 8 := by
  split
  · rfl
  · exact (lo_eq_setWidth _).symm

/-- Settles O26: every store is `storeb` or `storew` of its register, or of zero, by its width. -/
theorem storesRun : Obligations.StoresRun := by
  intro i am s t w v hi hv
  obtain ⟨hs, rfl, rfl⟩ := store_source hi
  constructor
  · intro hn h
    rw [exec_store_byte hv hs hn, store_source_lo, storeb_eq_ok.mpr h, finish_ok]
  · intro hn h
    rw [exec_store_word hv hs hn, storew_eq_ok.mpr h, finish_ok]

end Sys2Proof.Machine
end

section
/-! PROOFS. Arithmetic, logic, compares and bit tests (42 R170 to R183). -/

namespace Sys2Proof.Machine

/-! ### One flag more -/

section Flags

variable {p q : Byte} {n v z c : Option Bool} (h : FlagsBecome p q n v z c) (b : Bool)
include h

theorem FlagsBecome.setN : FlagsBecome p (setFlag q .n b) (some b) v z c := by
  constructor <;> simp [getFlag_setFlag, h.v, h.m, h.x, h.d, h.i, h.z, h.c]

theorem FlagsBecome.setV : FlagsBecome p (setFlag q .v b) n (some b) z c := by
  constructor <;> simp [getFlag_setFlag, h.n, h.m, h.x, h.d, h.i, h.z, h.c]

theorem FlagsBecome.setZ : FlagsBecome p (setFlag q .z b) n v (some b) c := by
  constructor <;> simp [getFlag_setFlag, h.n, h.v, h.m, h.x, h.d, h.i, h.c]

end Flags

/-! ### Logic -/

/-- A bitwise operation, with N and Z from its result. -/
def logicAlu (f : (w : Nat) → BitVec w → BitVec w → BitVec w) : Alu := fun w p a v => (f w a v, setnz p (f w a v))

theorem exec_logic {i : Instr} {am : Variant} {f : (w : Nat) → BitVec w → BitVec w → BitVec w} (s : State)
    (hf : i.mnemonic.logic = some f) (hv : i.variant? = some am) :
    exec i s = finish (regOperand (logicAlu f) .a am s) := by
  cases hm : i.mnemonic <;> rw [hm] at hf <;> cases hf
  case AND | ORA | EOR => exact exec_over hv (by rw [hm]; rfl)

/-- Settles O29: each of the three is `regOperand` on its bitwise operation, with the flags of `setnz`. -/
theorem logicRuns : Obligations.LogicRuns := by
  intro i am s t f hf hv
  rw [exec_logic s hf hv]
  constructor
  · intro hn v hl
    exact ⟨_, nzBecome_setnz s.cpu.p _, congrArg finish (regOperand_byte (r := .a) hn hl)⟩
  · intro hn v hl
    exact ⟨_, nzBecome_setnz s.cpu.p _, congrArg finish (regOperand_word (r := .a) hn hl)⟩

/-! ### Additions -/

/-- ADC, or SBC as ADC of the complement (R173). -/
def additionAlu (sub : Bool) : Alu := fun w p a v => adcAlu w p a (if sub then ~~~v else v)

theorem exec_addition {i : Instr} {am : Variant} {s : State} {sub : Bool}
    (hm : i.mnemonic = if sub then .SBC else .ADC) (hv : i.variant? = some am) (hd : getFlag s.cpu.p .d = false) :
    exec i s = finish (regOperand (additionAlu sub) .a am s) := by
  have binary : ¬ getFlag s.cpu.p .d = true := by simp [hd]
  cases sub <;> exact exec_over hv (by rw [hm]; exact congrArg some (if_neg binary))

/-- What is left of a sum with carry, and what the carry out stands for. -/
theorem sum_eq_or_eq_add {m a v c r : Nat} (ha : a < m) (hv : v < m) (hc : c ≤ 1) (hr : r = (a + v + c) % m) :
    a + v + c = r ∨ a + v + c = r + m := by
  rcases Nat.lt_or_ge (a + v + c) m with h | h
  · exact .inl (by rw [hr, Nat.mod_eq_of_lt h])
  · exact .inr (by rw [hr, Nat.mod_eq_sub_mod h, Nat.mod_eq_of_lt (by omega)]; omega)

/-- The signed value of a word, by its sign. -/
theorem toInt_cases {w : Nat} (x : BitVec w) :
    2 * x.toNat < 2 ^ w ∧ x.toInt = x.toNat ∨ 2 ^ w ≤ 2 * x.toNat ∧ x.toInt = x.toNat - (2 ^ w : Nat) := by
  rw [BitVec.toInt_eq_toNat_cond]
  split
  case isTrue h => exact .inl ⟨h, rfl⟩
  case isFalse h => exact .inr ⟨Nat.le_of_not_lt h, rfl⟩

/-- The signed sum fits unless the result has the sign of neither of the two (R172). -/
theorem overflow_eq_decide {w : Nat} (hw : 0 < w) {a v r : BitVec w} {c : Bool}
    (hr : r.toNat = (a.toNat + v.toNat + c.toNat) % 2 ^ w) :
    ((a ^^^ r) &&& (v ^^^ r)).msb = decide (a.toInt + v.toInt + c.toNat ≠ r.toInt) := by
  have signs : ((a ^^^ r) &&& (v ^^^ r)).msb = true ↔
      ¬ (a.toInt < 0 ↔ r.toInt < 0) ∧ ¬ (v.toInt < 0 ↔ r.toInt < 0) := by
    rw [BitVec.msb_and, BitVec.msb_xor, BitVec.msb_xor, Bool.and_eq_true]
    simp only [BitVec.msb_eq_toInt, bne_iff_ne, ne_eq, decide_eq_decide]
  rw [Bool.eq_iff_iff, signs, decide_eq_true_iff]
  have sum := sum_eq_or_eq_add a.isLt v.isLt c.toNat_le hr
  have even : 2 ∣ 2 ^ w := dvd_pow_self 2 hw.ne'
  have ha := toInt_cases a
  have hv := toInt_cases v
  have hr := toInt_cases r
  have := r.isLt
  have := c.toNat_le
  omega

theorem adcAlu_fst {w : Nat} {p : Byte} {a v r : BitVec w}
    (hr : r.toNat = (a.toNat + v.toNat + (getFlag p .c).toNat) % 2 ^ w) : (adcAlu w p a v).1 = r :=
  BitVec.eq_of_toNat_eq (by rw [hr, adcAlu, BitVec.toNat_ofNat])

/-- The four flags of a sum with carry (R172). -/
theorem flagsBecome_adcAlu {w : Nat} (hw : 0 < w) {p : Byte} {a v r : BitVec w}
    (hr : r.toNat = (a.toNat + v.toNat + (getFlag p .c).toNat) % 2 ^ w) :
    FlagsBecome p (adcAlu w p a v).2 (some r.msb)
      (some (decide (a.toInt + v.toInt + (getFlag p .c).toNat ≠ r.toInt))) (some (decide (r.toNat = 0)))
      (some (decide (2 ^ w - 1 < a.toNat + v.toNat + (getFlag p .c).toNat))) := by
  rw [← overflow_eq_decide hw hr, ← adcAlu_fst hr]
  exact flagsBecome_setnz ((flagsBecome_setC p _).setV _) _

/-- Settles O27: both are `regOperand` on a sum with carry, SBC on that of the complement. -/
theorem additionsRun : Obligations.AdditionsRun := by
  intro i am s t sub hi hv hd
  rw [exec_addition hi hv hd]
  constructor
  · rintro hn v w r hl rfl hr
    obtain rfl := adcAlu_fst hr
    exact ⟨_, flagsBecome_adcAlu (by decide) hr, congrArg finish (regOperand_byte (r := .a) hn hl)⟩
  · rintro hn v w r hl rfl hr
    obtain rfl := adcAlu_fst hr
    exact ⟨_, flagsBecome_adcAlu (by decide) hr, congrArg finish (regOperand_word (r := .a) hn hl)⟩

/-- ADC and SBC have an operand in every form. -/
theorem variant_of_addition {i : Instr} (hm : i.mnemonic = .ADC ∨ i.mnemonic = .SBC) : ∃ am, i.variant? = some am := by
  cases hv : i.variant?
  case some am => exact ⟨am, rfl⟩
  case none => cases i <;> cases hv <;> exact absurd hm (by decide)

/-- Settles O28: the check comes before the operand, and the bytes PC has passed are those of the encoding. -/
theorem decimalArithmeticTraps : Obligations.DecimalArithmeticTraps := by
  intro i s hm hd
  obtain ⟨am, hv⟩ := variant_of_addition hm
  have length : (encode i).length = am.bytes.length + 1 := congrArg (·.length + 1) (encode_tail_of_variant hv)
  rw [exec_decimal hv hm hd, finish_error, decimalTrap, length]

/-! ### Compares and bit tests: the register is handed back -/

section Kept

variable {f : Alu} {r : Reg} {am : Variant} {s t : State} (hk : KeepsRegister f)
include hk

theorem regOperand_kept_byte {v : Byte} (hn : s.narrow r = true) (h : LoadsByte am s v t) :
    regOperand f r am s = .ok (t.setP (f 8 s.cpu.p (lo (s.reg r)) v).2) := by
  rw [regOperand_byte hn h, put8, hk, ← State.reg_congr (loadsByte_loaded h).cpu, setRegLo_self]

theorem regOperand_kept_word {v : Word} (hn : s.narrow r = false) (h : LoadsWord am s v t) :
    regOperand f r am s = .ok (t.setP (f 16 s.cpu.p (s.reg r) v).2) := by
  rw [regOperand_word hn h, put16, hk, ← State.reg_congr (loadsWord_loaded h).cpu, setReg_self]

end Kept

theorem exec_compare {i : Instr} {am : Variant} {r : Reg} (s : State)
    (hi : i.mnemonic = .CMP ∧ r = .a ∨ i.mnemonic = .CPX ∧ r = .x ∨ i.mnemonic = .CPY ∧ r = .y)
    (hv : i.variant? = some am) : exec i s = finish (regOperand cmpAlu r am s) := by
  rcases hi with ⟨hm, rfl⟩ | ⟨hm, rfl⟩ | ⟨hm, rfl⟩ <;> exact exec_over hv (by rw [hm]; rfl)

theorem sub_msb_eq_decide {w : Nat} (a v : BitVec w) :
    (a - v).msb = decide (2 ^ (w - 1) ≤ (a.toNat + 2 ^ w - v.toNat) % 2 ^ w) := by
  have := v.isLt
  rw [BitVec.msb_eq_decide, BitVec.toNat_sub, show 2 ^ w - v.toNat + a.toNat = a.toNat + 2 ^ w - v.toNat by omega]

theorem sub_toNat_eq_zero_iff {w : Nat} (a v : BitVec w) : (a - v).toNat = 0 ↔ a = v :=
  BitVec.toNat_eq.symm.trans sub_eq_zero

/-- The three flags of a comparison (R177). -/
theorem flagsBecome_cmpAlu {w : Nat} (p : Byte) (a v : BitVec w) :
    FlagsBecome p (cmpAlu w p a v).2 (some (decide (2 ^ (w - 1) ≤ (a.toNat + 2 ^ w - v.toNat) % 2 ^ w))) none
      (some (decide (a = v))) (some (decide (v.toNat ≤ a.toNat))) := by
  have flags := flagsBecome_setnz (flagsBecome_setC p (decide (v.toNat ≤ a.toNat))) (a - v)
  simp only [sub_msb_eq_decide, sub_toNat_eq_zero_iff] at flags
  exact flags

/-- Settles O30: each of the three is `regOperand` on a comparison, which hands its register back. -/
theorem comparesRun : Obligations.ComparesRun := by
  intro i am s t r hi hv
  rw [exec_compare s hi hv]
  constructor
  · intro hn v hl
    exact ⟨_, flagsBecome_cmpAlu _ _ v, congrArg finish (regOperand_kept_byte cmpAlu_keepsRegister hn hl)⟩
  · intro hn v hl
    exact ⟨_, flagsBecome_cmpAlu _ _ v, congrArg finish (regOperand_kept_word cmpAlu_keepsRegister hn hl)⟩

/-- Z from an and. -/
theorem flagsBecome_test {w : Nat} (p : Byte) (a v : BitVec w) :
    FlagsBecome p (setFlag p .z ((a &&& v) == 0#w)) none none (some (decide (a &&& v = 0#w))) none :=
  beq_eq_decide (a &&& v) 0#w ▸ (FlagsBecome.refl p).setZ _

/-- The form of BIT by whether its operand is an immediate (R180). -/
def bitTestAlu (imm : Bool) : Alu := if imm then bitImmAlu else bitAlu

theorem bitTestAlu_keepsRegister (imm : Bool) : KeepsRegister (bitTestAlu imm) := by
  cases imm
  · exact bitAlu_keepsRegister
  · exact bitImmAlu_keepsRegister

theorem flagsBecome_bitTestAlu {w : Nat} (imm : Bool) (p : Byte) (a v : BitVec w) :
    FlagsBecome p (bitTestAlu imm w p a v).2 (if imm then none else some (v.getLsbD (w - 1)))
      (if imm then none else some (v.getLsbD (w - 2))) (some (decide (a &&& v = 0#w))) none := by
  cases imm
  · exact BitVec.msb_eq_getLsbD_last v ▸ ((flagsBecome_test p a v).setN v.msb).setV _
  · exact flagsBecome_test p a v

theorem immediate_iff_format {i : Instr} {am : Variant} (hm : i.mnemonic = .BIT) (hv : i.variant? = some am) :
    immediate am = true ↔ i.format = .immM := by
  cases i <;> cases hm
  case bitImm v => cases v <;> cases hv <;> exact iff_of_true rfl rfl
  all_goals cases hv; exact iff_of_false nofun nofun

theorem exec_bit {i : Instr} {am : Variant} {imm : Bool} (s : State) (hm : i.mnemonic = .BIT)
    (hv : i.variant? = some am) (himm : imm = true ↔ i.format = .immM) :
    exec i s = finish (regOperand (bitTestAlu imm) .a am s) := by
  obtain rfl : imm = immediate am := Bool.eq_iff_iff.mpr (himm.trans (immediate_iff_format hm hv).symm)
  refine exec_over hv ?_
  rw [hm, overVariant, bitTestAlu]
  split <;> rfl

/-- Settles O31: BIT is `regOperand` on a bit test, which hands the accumulator back. -/
theorem bitTestsRun : Obligations.BitTestsRun := by
  intro i am s t imm hm hv himm
  rw [exec_bit s hm hv himm]
  have keeps := bitTestAlu_keepsRegister imm
  constructor
  · intro hn v hl
    exact ⟨_, flagsBecome_bitTestAlu imm s.cpu.p _ v, congrArg finish (regOperand_kept_byte (r := .a) keeps hn hl)⟩
  · intro hn v hl
    exact ⟨_, flagsBecome_bitTestAlu imm s.cpu.p _ v, congrArg finish (regOperand_kept_word (r := .a) keeps hn hl)⟩

/-! ### Bits set and cleared in memory -/

/-- TRB or TSB. -/
def setBitsAlu (clear : Bool) : Alu := if clear then trbAlu else tsbAlu

theorem setBitsAlu_fst (clear : Bool) (w : Nat) (p : Byte) (a v : BitVec w) :
    (setBitsAlu clear w p a v).1 = if clear then v &&& ~~~a else v ||| a := by cases clear <;> rfl

theorem flagsBecome_setBitsAlu {w : Nat} (clear : Bool) (p : Byte) (a v : BitVec w) :
    FlagsBecome p (setBitsAlu clear w p a v).2 none none (some (decide (a &&& v = 0#w))) none := by
  cases clear <;> exact flagsBecome_test p a v

theorem exec_setBits {i : Instr} {am : Variant} {clear : Bool} (s : State)
    (hm : i.mnemonic = if clear then .TRB else .TSB) (hv : i.variant? = some am) :
    exec i s = finish (readModifyWrite (setBitsAlu clear) am s) := by
  cases clear <;> exact exec_over hv (by rw [hm]; rfl)

/-- Settles O32: both are the read-modify-write primitive on their operation. -/
theorem testAndSetBitsRun : Obligations.TestAndSetBitsRun := by
  intro i am s w t clear hm hv
  rw [exec_setBits s hm hv]
  constructor
  · intro hn v h
    rw [← setBitsAlu_fst clear 8 s.cpu.p] at h
    exact ⟨_, flagsBecome_setBitsAlu clear s.cpu.p _ v, congrArg finish (readModifyWrite_byte hn h)⟩
  · intro hn v h
    rw [← setBitsAlu_fst clear 16 s.cpu.p] at h
    exact ⟨_, flagsBecome_setBitsAlu clear s.cpu.p _ v, congrArg finish (readModifyWrite_word hn h)⟩

end Sys2Proof.Machine
end

section
/-! PROOFS. Shifts, increments and decrements (43 R200 to R210). -/

namespace Sys2Proof.Machine

/-! ### The six computations -/

/-- What a shift, rotate, increment or decrement computes, in memory and in a register. -/
def shiftAlu : Mnemonic → Option Alu
  | .ASL => some aslAlu
  | .LSR => some lsrAlu
  | .ROL => some rolAlu
  | .ROR => some rorAlu
  | .INC => some incAlu
  | .DEC => some decAlu
  | _ => none

section Computation

variable {m : Mnemonic} {w : Nat} {k0 : Bool} {v r : BitVec w} {k : Option Bool}

theorem exists_shiftAlu_of_shifts (h : m.Shifts k0 v r k) : ∃ f, shiftAlu m = some f := by
  cases m
  case ASL | LSR | ROL | ROR | INC | DEC => exact ⟨_, rfl⟩
  all_goals exact h.elim

theorem puts_of_shifts (h : m.Shifts k0 v r k) (a : BitVec w) : m.Puts a k0 v r := by
  cases m
  case TSB | TRB => exact h.elim
  all_goals exact ⟨k, h⟩

theorem shiftAlu_writesAs {f : Alu} (hf : shiftAlu m = some f) : WritesAs m f := by
  cases m <;> cases hf
  case ASL => exact aslAlu_writesAs
  case LSR => exact lsrAlu_writesAs
  case ROL => exact rolAlu_writesAs
  case ROR => exact rorAlu_writesAs
  case INC => exact incAlu_writesAs
  case DEC => exact decAlu_writesAs

/-- The bit a left shift moves out is what the doubled number carries past the width. -/
theorem msb_eq_decide_double (v : BitVec w) : v.msb = decide (2 ^ w ≤ v.toNat * 2) := by
  rw [BitVec.msb_eq_decide]
  cases w with
  | zero => rw [BitVec.eq_nil v]; rfl
  | succ n => rw [decide_eq_decide, Nat.add_sub_cancel, Nat.pow_succ]; omega

/-- N and Z are those of the result, C is the bit moved out. -/
theorem flagsBecome_shiftAlu {p : Byte} {f : Alu} (hf : shiftAlu m = some f) (h : m.Shifts (getFlag p .c) v r k)
    (a : BitVec w) : FlagsBecome p (f w p a v).2 (some r.msb) none (some (decide (r.toNat = 0))) k := by
  obtain rfl := shiftAlu_writesAs hf w p a v r (puts_of_shifts h a)
  cases m <;> cases hf <;> obtain ⟨-, rfl⟩ := h
  case ASL | ROL =>
    rw [← msb_eq_decide_double]
    exact flagsBecome_setnz (flagsBecome_setC p _) _
  case LSR | ROR =>
    rw [← Nat.testBit_zero]
    exact flagsBecome_setnz (flagsBecome_setC p _) _
  case INC | DEC => exact nzBecome_setnz p _

end Computation

/-! ### On memory -/

theorem exec_shift {i : Instr} {am : Variant} {f : Alu} (s : State) (hv : i.variant? = some am)
    (hf : shiftAlu i.mnemonic = some f) : exec i s = finish (readModifyWrite f am s) := by
  cases hm : i.mnemonic <;> rw [hm] at hf <;> cases hf
  case ASL | LSR | ROL | ROR | INC | DEC => exact exec_over hv (by rw [hm]; rfl)

/-- Settles O33: each of the six is the read-modify-write primitive on its computation. -/
theorem memoryShiftsRun : Obligations.MemoryShiftsRun := by
  intro i am s w t k hv
  constructor
  · intro hn v r hr h
    obtain ⟨f, hf⟩ := exists_shiftAlu_of_shifts hr
    rw [← shiftAlu_writesAs hf 8 s.cpu.p (lo s.cpu.a) v r (puts_of_shifts hr _)] at h
    exact ⟨_, flagsBecome_shiftAlu hf hr _, by rw [exec_shift s hv hf, readModifyWrite_byte hn h, finish_ok]⟩
  · intro hn v r hr h
    obtain ⟨f, hf⟩ := exists_shiftAlu_of_shifts hr
    rw [← shiftAlu_writesAs hf 16 s.cpu.p s.cpu.a v r (puts_of_shifts hr _)] at h
    exact ⟨_, flagsBecome_shiftAlu hf hr _, by rw [exec_shift s hv hf, readModifyWrite_word hn h, finish_ok]⟩

/-! ### On a register -/

/-- The 8-bit case of the shape on a register: the low byte alone is written. -/
theorem regAlone_shift_byte {m : Mnemonic} {f : Alu} {r : Reg} {s : State} {v : Byte} {k : Option Bool}
    (hf : shiftAlu m = some f) (hn : s.narrow r = true)
    (h : m.Shifts (getFlag s.cpu.p .c) (lo (s.reg r)) v k) :
    ∃ q, FlagsBecome s.cpu.p q (some v.msb) none (some (decide (v.toNat = 0))) k ∧
      regAlone f r s = (s.setRegLo r v).setP q := by
  refine ⟨_, flagsBecome_shiftAlu hf h (lo (s.reg r)), ?_⟩
  rw [regAlone, if_pos hn, put8, shiftAlu_writesAs hf _ _ _ _ _ (puts_of_shifts h _)]

/-- The 16-bit case. -/
theorem regAlone_shift_word {m : Mnemonic} {f : Alu} {r : Reg} {s : State} {v : Word} {k : Option Bool}
    (hf : shiftAlu m = some f) (hn : s.narrow r = false)
    (h : m.Shifts (getFlag s.cpu.p .c) (s.reg r) v k) :
    ∃ q, FlagsBecome s.cpu.p q (some v.msb) none (some (decide (v.toNat = 0))) k ∧
      regAlone f r s = (s.setReg r v).setP q := by
  refine ⟨_, flagsBecome_shiftAlu hf h (s.reg r), ?_⟩
  rw [regAlone, if_neg (by simp [hn]), put16, shiftAlu_writesAs hf _ _ _ _ _ (puts_of_shifts h _)]

theorem exec_shift_accumulator {i : Instr} {f : Alu} (s : State) (hi : i.format = .acc)
    (hf : shiftAlu i.mnemonic = some f) : exec i s = .next (regAlone f .a s) := by
  cases i <;> cases hi <;> cases hf <;> rfl

/-- Settles O34: each of the six is its computation on the accumulator. -/
theorem accumulatorShiftsRun : Obligations.AccumulatorShiftsRun := by
  intro i s k hi
  constructor
  · intro hn r hr
    obtain ⟨f, hf⟩ := exists_shiftAlu_of_shifts hr
    obtain ⟨q, hq, result⟩ := regAlone_shift_byte (r := .a) hf hn hr
    exact ⟨q, hq, by rw [exec_shift_accumulator s hi hf, result]⟩
  · intro hn r hr
    obtain ⟨f, hf⟩ := exists_shiftAlu_of_shifts hr
    obtain ⟨q, hq, result⟩ := regAlone_shift_word (r := .a) hf hn hr
    exact ⟨q, hq, by rw [exec_shift_accumulator s hi hf, result]⟩

/-! ### The index registers -/

/-- An index step is INC or DEC, by what it adds, on an index register. -/
theorem exec_index_step {i : Instr} {r : Reg} {n : Nat} (s : State)
    (hi : i = .inx ∧ r = .x ∧ n = 1 ∨ i = .iny ∧ r = .y ∧ n = 1 ∨ i = .dex ∧ r = .x ∧ n = 65535 ∨
      i = .dey ∧ r = .y ∧ n = 65535) :
    s.narrow r = s.x8 ∧ ∃ m f, (m = .INC ∧ n = 1 ∨ m = .DEC ∧ n = 65535) ∧ shiftAlu m = some f ∧
      exec i s = .next (regAlone f r s) := by
  rcases hi with ⟨rfl, rfl, rfl⟩ | ⟨rfl, rfl, rfl⟩ | ⟨rfl, rfl, rfl⟩ | ⟨rfl, rfl, rfl⟩
  case inl | inr.inl => exact ⟨rfl, .INC, _, .inl ⟨rfl, rfl⟩, rfl, rfl⟩
  case inr.inr.inl | inr.inr.inr => exact ⟨rfl, .DEC, _, .inr ⟨rfl, rfl⟩, rfl, rfl⟩

/-- At a width that divides 16 bits, adding 65535 is the step down of DEC. -/
theorem shifts_of_step {m : Mnemonic} {n w : Nat} (hm : m = .INC ∧ n = 1 ∨ m = .DEC ∧ n = 65535) (hw : 2 ^ w ∣ 65536)
    {x v : BitVec w} (hv : v.toNat = (x.toNat + n) % 2 ^ w) (k0 : Bool) : m.Shifts k0 x v none := by
  rcases hm with ⟨rfl, rfl⟩ | ⟨rfl, rfl⟩
  · exact ⟨hv, rfl⟩
  · refine ⟨?_, rfl⟩
    calc (v.toNat + 1) % 2 ^ w = (x.toNat + 65536) % 2 ^ w := by rw [hv, Nat.mod_add_mod]
      _ = x.toNat := by rw [Nat.add_mod, Nat.mod_eq_zero_of_dvd hw, Nat.add_zero, Nat.mod_mod, Nat.mod_eq_of_lt x.isLt]

/-- Settles O35: each of the four is the computation of INC or DEC on its index register. -/
theorem indexStepsRun : Obligations.IndexStepsRun := by
  intro i s r n hi
  obtain ⟨hx, m, f, hm, hf, run⟩ := exec_index_step s hi
  rw [← hx]
  constructor
  · intro hn v hv
    obtain ⟨q, hq, result⟩ := regAlone_shift_byte hf hn (shifts_of_step hm (by decide) hv _)
    exact ⟨q, hq, by rw [run, result]⟩
  · intro hn v hv
    obtain ⟨q, hq, result⟩ := regAlone_shift_word hf hn (shifts_of_step hm (by decide) hv _)
    exact ⟨q, hq, by rw [run, result]⟩

end Sys2Proof.Machine
end

section
/-! PROOFS. The stack: its primitives, the pushes and the pulls (45 R240 to R257). -/

namespace Sys2Proof.Machine

/-! ### Traps of the primitives -/

theorem pushb_trap {v : Byte} {s : State} {f : Fault} (h : busStore 0x00 s.cpu.s v s = .error f) :
    pushb v s = .error f := by rw [pushb, h, writeThen_error]

theorem pushw_high_trap {v : Word} {s : State} {f : Fault} (h : pushb (hi v) s = .error f) : pushw v s = .error f := by
  rw [pushw, h, writeThen_error]

theorem pushw_low_trap {v : Word} {s t : State} {f : Fault} (ht : pushb (hi v) s = .ok t)
    (h : pushb (lo v) t = .error f) : pushw v s = .error f := by rw [pushw, ht, writeThen_ok, h]

theorem popw_low_trap {s : State} {f : Fault} (h : popb s = .error f) : popw s = .error f := by
  rw [popw, h, readThen_error]

theorem popw_high_trap {s t : State} {l : Byte} {f : Fault} (ht : popb s = .ok (l, t)) (h : popb t = .error f) :
    popw s = .error f := by rw [popw, ht, readThen_ok, h, readThen_error]

/-- Settles O38: what the primitives answer is known both ways, and a word traps on the first of its bytes that does. -/
theorem stackPrimitives : Obligations.StackPrimitives := by
  refine ⟨fun _ _ _ => pushesByte_iff.symm, fun _ _ _ => pushesWord_iff.symm, fun _ _ _ => popsByte_iff.symm,
    fun _ _ _ => popsWord_iff.symm, fun s t f => ?traps⟩
  simp only [hi_eq_shift, pushesByte_iff, popsByte_iff, spAbove_iff]
  simp only [lo_eq_setWidth]
  refine ⟨fun v => pushb_trap, fun v hf => pushw_high_trap (pushb_trap hf),
    fun v ht hf => pushw_low_trap ht (pushb_trap hf), ?pop, ?popSecond⟩
  case pop =>
    rintro _ rfl hf
    exact ⟨hf, popw_low_trap hf⟩
  case popSecond =>
    rintro l _ ht rfl hf
    exact popw_high_trap ht hf

/-! ### Pushes -/

theorem exec_push_byte {i : Instr} {r : Reg} {s t : State} (hi : exec i s = finish (pushReg r s))
    (hn : s.narrow r = true) (h : pushb (lo (s.reg r)) s = .ok t) : exec i s = .next t := by
  rw [hi, pushReg_byte hn, h, finish_ok]

theorem exec_push_word {i : Instr} {r : Reg} {s t : State} (hi : exec i s = finish (pushReg r s))
    (hn : s.narrow r = false) (h : pushw (s.reg r) s = .ok t) : exec i s = .next t := by
  rw [hi, pushReg_word hn, h, finish_ok]

/-- Settles O40: PHA, PHX and PHY are `pushReg`, the others one primitive whatever the width. -/
theorem pushesRun : Obligations.PushesRun := by
  intro s t
  simp only [pushesByte_iff, pushesWord_iff]
  exact ⟨exec_push_byte (r := .a) rfl, exec_push_word (r := .a) rfl, exec_push_byte (r := .x) rfl,
    exec_push_word (r := .x) rfl, exec_push_byte (r := .y) rfl, exec_push_word (r := .y) rfl,
    congrArg finish, congrArg finish, congrArg finish, congrArg finish⟩

/-! ### Pulls -/

theorem popb_keeps_p {s t : State} {v : Byte} (h : popb s = .ok (v, t)) : t.cpu.p = s.cpu.p := by
  obtain ⟨-, hcpu, -⟩ := popb_keeps h
  rw [hcpu]

theorem popw_keeps_p {s t : State} {v : Word} (h : popw s = .ok (v, t)) : t.cpu.p = s.cpu.p := by
  obtain ⟨-, hcpu, -⟩ := popw_keeps h
  rw [hcpu]

theorem pullReg_byte {r : Reg} {s t : State} {v : Byte} (hn : s.narrow r = true) (h : popb s = .ok (v, t)) :
    pullReg r s = .ok ((t.setRegLo r v).setP (setnz s.cpu.p v)) := by
  rw [pullReg, if_pos hn, h, readThen_ok, popb_keeps_p h]; rfl

theorem pullReg_word {r : Reg} {s t : State} {v : Word} (hn : s.narrow r = false) (h : popw s = .ok (v, t)) :
    pullReg r s = .ok ((t.setReg r v).setP (setnz s.cpu.p v)) := by
  rw [pullReg, if_neg (ne_true_of_eq_false hn), h, readThen_ok, popw_keeps_p h]; rfl

theorem plp_of_popb {s t : State} {v : Byte} (h : popb s = .ok (v, t)) : plp s = .ok (t.setP v) := by
  rw [plp, h, readThen_ok]

theorem plb_of_popb {s t : State} {v : Byte} (h : popb s = .ok (v, t)) :
    plb s = .ok ((t.setDbr v).setP (setnz s.cpu.p v)) := by
  rw [plb, h, readThen_ok, State.setNz, State.setDbr_cpu_p, popb_keeps_p h]

theorem pld_of_popw {s t : State} {v : Word} (h : popw s = .ok (v, t)) :
    pld s = .ok ((t.setD v).setP (setnz s.cpu.p v)) := by
  rw [pld, h, readThen_ok, State.setNz, State.setD_cpu_p, popw_keeps_p h]

theorem exec_pull {i : Instr} {r : Reg} (s : State)
    (hi : i = .pla ∧ r = .a ∨ i = .plx ∧ r = .x ∨ i = .ply ∧ r = .y) : exec i s = finish (pullReg r s) := by
  rcases hi with ⟨rfl, rfl⟩ | ⟨rfl, rfl⟩ | ⟨rfl, rfl⟩ <;> rfl

/-- Settles O41: PLA, PLX and PLY are `pullReg`, the others a pop of fixed width and their writes; N and Z are those of
`setnz`. -/
theorem pullsRun : Obligations.PullsRun := by
  simp only [Obligations.PullsRun, popsByte_iff, popsWord_iff]
  refine ⟨fun i s t r hi => ⟨fun hn v h => ?byte, fun hn v h => ?word⟩, fun s t v h => congrArg finish (plp_of_popb h),
    fun s t v h => ?plb, fun s t v h => ?pld⟩
  case byte => exact ⟨_, nzBecome_setnz s.cpu.p v, by rw [exec_pull s hi, pullReg_byte hn h, finish_ok]⟩
  case word => exact ⟨_, nzBecome_setnz s.cpu.p v, by rw [exec_pull s hi, pullReg_word hn h, finish_ok]⟩
  case plb => exact ⟨_, nzBecome_setnz s.cpu.p v, congrArg finish (plb_of_popb h)⟩
  case pld => exact ⟨_, nzBecome_setnz s.cpu.p v, congrArg finish (pld_of_popw h)⟩

end Sys2Proof.Machine
end

section
/-! PROOFS. A call and its return on stack RAM (46 R282 to R284). -/

namespace Sys2Proof.Machine

/-- The state three bytes pushed on RAM leave. -/
def pushedThree (s : State) (x y z : Byte) : State := pushed (pushed (pushed s x) y) z

/-- `u` has the parameters, the mode and the stack pointer of `t`, and its bytes at the offsets of `os` (46 R284). -/
structure StackKept (os : List Word) (t u : State) : Prop where
  cfg     : u.cfg = t.cfg
  mode    : u.cpu.e = t.cpu.e
  pointer : u.cpu.s = t.cpu.s
  bytes   : ∀ o ∈ os, u.byteAt 0x00 o = t.byteAt 0x00 o

theorem stackRam_three {s : State} (h : s.StackRam 3) :
    s.Ram 0x00 s.cpu.s ∧ s.Ram 0x00 (stackDown s.cpu.e s.cpu.s) ∧
      s.Ram 0x00 (stackDown s.cpu.e (stackDown s.cpu.e s.cpu.s)) ∧
      s.Apart 0x00 s.cpu.s 0x00 (stackDown s.cpu.e s.cpu.s) ∧
      s.Apart 0x00 s.cpu.s 0x00 (stackDown s.cpu.e (stackDown s.cpu.e s.cpu.s)) ∧
      s.Apart 0x00 (stackDown s.cpu.e s.cpu.s) 0x00 (stackDown s.cpu.e (stackDown s.cpu.e s.cpu.s)) := by
  obtain ⟨hram, hapart⟩ := h
  simp only [pushOffsets] at hram hapart
  exact ⟨hram _ (by simp), hram _ (by simp), hram _ (by simp), List.rel_of_pairwise_cons hapart (by simp),
    List.rel_of_pairwise_cons hapart (by simp), List.rel_of_pairwise_cons hapart.of_cons (by simp)⟩

section Call

variable {s u : State} (hwf : Memory.wf s.mem) (hpage : s.cpu.e = true → hi s.cpu.s = 0x01) (hstack : s.StackRam 3)

include hstack in
theorem pushes_three (x y z : Byte) :
    pushb x s = .ok (pushed s x) ∧ pushb y (pushed s x) = .ok (pushed (pushed s x) y) ∧
      pushb z (pushed (pushed s x) y) = .ok (pushedThree s x y z) := by
  obtain ⟨hfirst, hsecond, hthird, -⟩ := stackRam_three hstack
  exact ⟨pushb_ram hfirst x, pushb_ram (ram_pushed.mpr hsecond) y, pushb_ram (ram_pushed.mpr (ram_pushed.mpr hthird)) z⟩

include hwf hstack in
/-- After three pushes each byte stands where it was pushed: no later push reaches it. -/
theorem pushedThree_bytes (x y z : Byte) :
    (pushedThree s x y z).byteAt 0x00 s.cpu.s = x ∧
      (pushedThree s x y z).byteAt 0x00 (stackDown s.cpu.e s.cpu.s) = y ∧
      (pushedThree s x y z).byteAt 0x00 (stackDown s.cpu.e (stackDown s.cpu.e s.cpu.s)) = z := by
  obtain ⟨-, -, -, hxy, hxz, hyz⟩ := stackRam_three hstack
  have hwf₁ : Memory.wf (pushed s x).mem := pushed_wf hwf x
  refine ⟨?first, ?second, pushed_byteAt_same (pushed_wf hwf₁ y) z⟩
  case first =>
    calc (pushedThree s x y z).byteAt 0x00 s.cpu.s
        = (pushed (pushed s x) y).byteAt 0x00 s.cpu.s := pushed_byteAt_other (s := pushed (pushed s x) y) hxz z
      _ = (pushed s x).byteAt 0x00 s.cpu.s := pushed_byteAt_other (s := pushed s x) hxy y
      _ = x := pushed_byteAt_same hwf x
  case second =>
    exact (pushed_byteAt_other (s := pushed (pushed s x) y) hyz z).trans (pushed_byteAt_same hwf₁ y)

include hwf hpage hstack

/-- Three bytes pushed on stack RAM are popped in reverse, from every later state that kept the stack. -/
theorem pops_reverse_three_pushes {x y z : Byte}
    (hu : StackKept (pushOffsets s.cpu.e 3 s.cpu.s) (pushedThree s x y z) u) :
    ∃ v w : State, popb u = .ok (z, v) ∧ popb v = .ok (y, w) ∧ popb w = .ok (x, u.setS s.cpu.s) := by
  obtain ⟨hcfg, he, hs, hbytes⟩ := hu
  obtain ⟨hfirst, hsecond, hthird, -⟩ := stackRam_three hstack
  obtain ⟨hx, hy, hz⟩ := pushedThree_bytes hwf hstack x y z
  have mode : s.cpu.e = u.cpu.e := he.symm
  have page : ∀ {sp}, u.cpu.e = true → hi (stackDown s.cpu.e sp) = 0x01 := fun h => stackDown_keeps_page (mode.trans h)
  have down : ∀ {sp}, stackDown s.cpu.e sp = stackDown u.cpu.e sp := by simp [mode]
  have ram : ∀ {o}, s.Ram 0x00 o → u.Ram 0x00 o := (ram_congr hcfg).mpr
  refine ⟨u.setS (stackDown s.cpu.e (stackDown s.cpu.e s.cpu.s)), u.setS (stackDown s.cpu.e s.cpu.s), ?_, ?_, ?_⟩
  · exact popb_ram_above (hs.trans down) page (ram hthird) ((hbytes _ (by simp [pushOffsets])).trans hz)
  · exact popb_ram_above (s := u.setS _) down page (ram hsecond) ((hbytes _ (by simp [pushOffsets])).trans hy)
  · exact popb_ram_above (s := u.setS _) down (fun h => hpage (mode.trans h)) (ram hfirst)
      ((hbytes _ (by simp [pushOffsets])).trans hx)

/-- Whatever CALL_STACK_ORDER, the pops of a return undo the pushes of a call: each order pushes three bytes and pops
them in reverse. -/
theorem popReturn_undoes_pushReturn (ra : Word) :
    ∃ t, pushReturn ra s = .ok t ∧
      ∀ u, StackKept (pushOffsets s.cpu.e 3 s.cpu.s) t u → popReturn u = .ok ((s.cpu.pbr, ra), u.setS s.cpu.s) := by
  cases ho : s.cfg.callStackOrder with
  | pbrOnTop =>
    obtain ⟨hhi, hlo, hbank⟩ := pushes_three hstack (hi ra) (lo ra) s.cpu.pbr
    refine ⟨pushedThree s (hi ra) (lo ra) s.cpu.pbr, ?push, fun u hu => ?pop⟩
    case push =>
      rw [pushReturn_onTop ho, pushw_eq_ok.mpr ⟨_, hhi, hlo⟩, writeThen_ok]
      exact hbank
    case pop =>
      obtain ⟨v, w, hbank, hlo, hhi⟩ := pops_reverse_three_pushes hwf hpage hstack hu
      have hword : popw v = .ok (ra, u.setS s.cpu.s) := popw_eq_ok.mpr ⟨_, w, _, hlo, hhi, (word_hi_lo ra).symm⟩
      rw [popReturn_onTop (hu.cfg ▸ ho), hbank, readThen_ok, hword, readThen_ok]
  | pbrDeepest =>
    obtain ⟨hbank, hhi, hlo⟩ := pushes_three hstack s.cpu.pbr (hi ra) (lo ra)
    refine ⟨pushedThree s s.cpu.pbr (hi ra) (lo ra), ?push, fun u hu => ?pop⟩
    case push =>
      rw [pushReturn_deepest ho, hbank, writeThen_ok, pushw_eq_ok.mpr ⟨_, hhi, hlo⟩]
    case pop =>
      obtain ⟨v, w, hlo, hhi, hbank⟩ := pops_reverse_three_pushes hwf hpage hstack hu
      have hword : popw u = .ok (ra, w) := popw_eq_ok.mpr ⟨_, v, _, hlo, hhi, (word_hi_lo ra).symm⟩
      rw [popReturn_deepest (hu.cfg ▸ ho), hword, readThen_ok, hbank, readThen_ok]

end Call

/-- Settles O44: JSL pushes PBR and PC - 1, RTL pops them and resumes one past that offset. -/
theorem callAndReturnPairUp : Obligations.CallAndReturnPairUp := by
  intro s b a o hwf hpage hstack hpc
  obtain ⟨t, hpush, hpop⟩ := popReturn_undoes_pushReturn hwf hpage hstack (s.cpu.pc - 1)
  refine ⟨t.jump b a, exec_jsl_of_pushReturn hpush b a, rfl, rfl, fun u hcfg he hs hbytes => ?_⟩
  refine ⟨_, exec_rtl_of_popReturn (hpop u ⟨hcfg, he, hs, hbytes⟩), rfl, ?_, rfl⟩
  calc s.cpu.pc - 1 + 1 = s.cpu.pc := BitVec.sub_add_cancel _ _
    _ = o + 4 := hpc

end Sys2Proof.Machine
end

section
/-! PROOFS. Status and mode: the flag instructions, REP and SEP, NOP and RTI (47 R301 to R308, R310 to R312). -/

namespace Sys2Proof.Machine

/-! ### One flag -/

/-- Each of the seven is its opcode alone and writes its flag (47 R301 to R307). -/
theorem exec_flag {i : Instr} {op : Byte} {f : Flag} {v : Bool} (s : State)
    (hi : i = .clc ∧ op = 0x18 ∧ f = .c ∧ v = false ∨ i = .sec ∧ op = 0x38 ∧ f = .c ∧ v = true ∨
      i = .cli ∧ op = 0x58 ∧ f = .i ∧ v = false ∨ i = .sei ∧ op = 0x78 ∧ f = .i ∧ v = true ∨
      i = .cld ∧ op = 0xD8 ∧ f = .d ∧ v = false ∨ i = .sed ∧ op = 0xF8 ∧ f = .d ∧ v = true ∨
      i = .clv ∧ op = 0xB8 ∧ f = .v ∧ v = false) :
    encode i = [op] ∧ exec i s = .next (s.setPFlag f v) := by
  rcases hi with ⟨rfl, rfl, rfl, rfl⟩ | ⟨rfl, rfl, rfl, rfl⟩ | ⟨rfl, rfl, rfl, rfl⟩ | ⟨rfl, rfl, rfl, rfl⟩ |
    ⟨rfl, rfl, rfl, rfl⟩ | ⟨rfl, rfl, rfl, rfl⟩ | ⟨rfl, rfl, rfl, rfl⟩ <;> exact ⟨rfl, rfl⟩

/-- Settles O45: each of the seven is a write of its flag. -/
theorem flagInstructionsRun : Obligations.FlagInstructionsRun := by
  intro i op f v s hi
  obtain ⟨hop, run⟩ := exec_flag s hi
  exact ⟨hop, _, run, getFlag_setFlag_same s.cpu.p f v, fun g hg => getFlag_setFlag_other s.cpu.p v hg⟩

/-! ### A mask -/

theorem Flag.bit_lt (f : Flag) : f.bit < 8 := by cases f <;> decide

theorem getFlag_and_not (p k : Byte) (f : Flag) : getFlag (p &&& ~~~k) f = (getFlag p f && !getFlag k f) := by
  rw [getFlag, BitVec.getLsbD_and, BitVec.getLsbD_not, decide_eq_true f.bit_lt, Bool.true_and]; rfl

theorem getFlag_or (p k : Byte) (f : Flag) : getFlag (p ||| k) f = (getFlag p f || getFlag k f) :=
  BitVec.getLsbD_or

theorem rep_native {s : State} (he : s.cpu.e = false) (k : Byte) : rep k s = .ok (s.setP (s.cpu.p &&& ~~~k)) :=
  if_neg (ne_true_of_eq_false he)

theorem sep_native {s : State} (he : s.cpu.e = false) (k : Byte) : sep k s = .ok (s.setP (s.cpu.p ||| k)) :=
  if_neg (ne_true_of_eq_false he)

theorem rep_emulation {s : State} (he : s.cpu.e = true) (k : Byte) :
    rep k s = .error (.privilegedFlagInEmulation 0xC2 k) := if_pos he

theorem sep_emulation {s : State} (he : s.cpu.e = true) (k : Byte) :
    sep k s = .error (.privilegedFlagInEmulation 0xE2 k) := if_pos he

/-- Settles O46: by the mode, the check coming before the operand. -/
theorem maskInstructionsRun : Obligations.MaskInstructionsRun := by
  intro k s
  refine ⟨rfl, rfl, fun he => ⟨?rep, ?sep⟩, fun he => ?emulation⟩
  case rep => exact ⟨_, congrArg finish (rep_native he k), getFlag_and_not s.cpu.p k⟩
  case sep => exact ⟨_, congrArg finish (sep_native he k), getFlag_or s.cpu.p k⟩
  case emulation => exact ⟨congrArg finish (rep_emulation he k), congrArg finish (sep_emulation he k)⟩

/-! ### The return from the interrupt -/

section Return

variable {s t u w : State} {p b : Byte} {pc : Word}

theorem return_mode (hp : popb s = .ok (p, t)) (hpc : popw (t.setP p) = .ok (pc, u)) : u.cpu.e = s.cpu.e := by
  obtain ⟨-, cpu_t, -⟩ := popb_keeps hp
  obtain ⟨-, cpu_u, -⟩ := popw_keeps hpc
  rw [cpu_u, State.setP_cpu_e, cpu_t]

theorem returnFromInterrupt_emulation (hp : popb s = .ok (p, t)) (hpc : popw (t.setP p) = .ok (pc, u))
    (he : s.cpu.e = true) : returnFromInterrupt s = .ok (u.setPc pc) := by
  rw [returnFromInterrupt, hp, readThen_ok, hpc, readThen_ok]
  exact if_pos ((return_mode hp hpc).trans he)

theorem returnFromInterrupt_native (hp : popb s = .ok (p, t)) (hpc : popw (t.setP p) = .ok (pc, u))
    (he : s.cpu.e = false) (hb : popb (u.setPc pc) = .ok (b, w)) : returnFromInterrupt s = .ok (w.jump b pc) := by
  rw [returnFromInterrupt, hp, readThen_ok, hpc, readThen_ok, ← readThen_ok b w fun b t => .ok (t.jump b pc), ← hb]
  exact if_neg (ne_true_of_eq_false ((return_mode hp hpc).trans he))

end Return

/-- Settles O48: RTI is its pops in the order of R312, PBR's in native mode alone. -/
theorem nopAndReturnFromInterruptRun : Obligations.NopAndReturnFromInterruptRun := by
  refine ⟨fun s => rfl, fun s t u w p b pc => ?_⟩
  simp only [popsByte_iff, popsWord_iff]
  exact fun hp hpc => ⟨fun he => congrArg finish (returnFromInterrupt_emulation hp hpc he),
    fun he hb => congrArg finish (returnFromInterrupt_native hp hpc he hb)⟩

end Sys2Proof.Machine
end

section
/-! PROOFS. The interrupt entry and the return from it on stack RAM (47 R312, 60 R432, R435). -/

namespace Sys2Proof.Machine

/-! ### The frame on stack RAM -/

theorem pushed_cpu (s : State) (v : Byte) :
    (pushed s v).cpu = { s.cpu with s := stackDown s.cpu.e s.cpu.s } := rfl

theorem pushed_cfg (s : State) (v : Byte) : (pushed s v).cfg = s.cfg := rfl

theorem stackRam_pushed {s : State} {n : Nat} (h : s.StackRam (n + 1)) (v : Byte) : (pushed s v).StackRam n := by
  obtain ⟨ram, apart⟩ := h
  exact ⟨fun o ho => ram_pushed.mpr (ram o (List.mem_cons_of_mem _ ho)), apart.of_cons⟩

/-- Three pushes on RAM change no byte but the three they store. -/
theorem pushedThree_byteAt_other {s : State} {b : Byte} {o : Word}
    (h : ∀ x ∈ pushOffsets s.cpu.e 3 s.cpu.s, s.Apart b o 0x00 x) (x y z : Byte) :
    (pushedThree s x y z).byteAt b o = s.byteAt b o := by
  simp only [pushOffsets, List.forall_mem_cons] at h
  obtain ⟨hx, hy, hz, -⟩ := h
  calc (pushedThree s x y z).byteAt b o
      = (pushed (pushed s x) y).byteAt b o := pushed_byteAt_other (s := pushed (pushed s x) y) hz z
    _ = (pushed s x).byteAt b o := pushed_byteAt_other (s := pushed s x) hy y
    _ = s.byteAt b o := pushed_byteAt_other hx x

/-- The state PC and P pushed on RAM leave: the whole frame in emulation mode, the frame after PBR in native mode. -/
def savedPcP (s : State) : State := pushedThree s (hi s.cpu.pc) (lo s.cpu.pc) s.cpu.p

theorem savedPcP_cpu (s : State) :
    (savedPcP s).cpu = { s.cpu with s := stackDown s.cpu.e (stackDown s.cpu.e (stackDown s.cpu.e s.cpu.s)) } := rfl

theorem savedPcP_cfg (s : State) : (savedPcP s).cfg = s.cfg := rfl

theorem savedPcP_byteAt_other {s : State} {b : Byte} {o : Word}
    (h : ∀ x ∈ pushOffsets s.cpu.e 3 s.cpu.s, s.Apart b o 0x00 x) : (savedPcP s).byteAt b o = s.byteAt b o :=
  pushedThree_byteAt_other h _ _ _

theorem pushes_pc_p {s : State} (h : s.StackRam 3) :
    writeThen (pushw s.cpu.pc s) (pushb s.cpu.p) = .ok (savedPcP s) := by
  obtain ⟨hhi, hlo, hp⟩ := pushes_three h (hi s.cpu.pc) (lo s.cpu.pc) s.cpu.p
  rw [pushw_eq_ok.mpr ⟨_, hhi, hlo⟩, writeThen_ok]
  exact hp

theorem pushFrame_emulation {s : State} (he : s.cpu.e = true) (h : s.StackRam 3) :
    pushFrame s = .ok (savedPcP s) := by rw [pushFrame, if_pos he, pushes_pc_p h]

theorem pushFrame_native {s : State} (he : s.cpu.e = false) (h : s.StackRam 4) :
    pushFrame s = .ok (savedPcP (pushed s s.cpu.pbr)) := by
  rw [pushFrame, if_neg (ne_true_of_eq_false he), pushb_ram (h.1 _ List.mem_cons_self), writeThen_ok]
  exact pushes_pc_p (stackRam_pushed h s.cpu.pbr)

/-! ### The entry -/

/-- The state the entry leaves once its frame is pushed, with the vector's word `v` (60 R432). -/
def entered (f : State) (v : Word) : State :=
  (f.setP (setFlag (setFlag f.cpu.p .i true) .d false)).jump 0x00 v

theorem stackKept_entered (os : List Word) (f : State) (v : Word) : StackKept os f (entered f v) :=
  ⟨rfl, rfl, rfl, fun _ _ => rfl⟩

theorem cpuInterrupt_of_pushFrame {s f : State} (hf : pushFrame s = .ok f) (hlow : s.PlainRead 0x00 s.nmiVector)
    (hhigh : s.PlainRead 0x00 (s.nmiVector + 1)) : ∃ v, cpuInterrupt s = .ok (entered f v) := by
  obtain ⟨kept, -⟩ := pushFrame_keeps hf
  have hcfg : (entered f f.cpu.pc).cfg = s.cfg := kept.clock.cfg
  have hv := busLoadWord_plain (s := entered f f.cpu.pc) ((plainRead_congr hcfg).mpr hlow)
    ((plainRead_congr hcfg).mpr hhigh)
  exact ⟨_, by rw [cpuInterrupt, hf, writeThen_ok]; exact congrArg (readThen · fun pc t => .ok (t.setPc pc)) hv⟩

/-! ### The return -/

/-- A pop from plain memory does not look at P. -/
theorem popb_setP {s t : State} {v : Byte} (h : s.PlainRead 0x00 (stackUp s.cpu.e s.cpu.s))
    (hv : popb s = .ok (v, t)) (p : Byte) : popb (s.setP p) = .ok (v, t.setP p) := by
  rw [popb_plain h] at hv
  cases hv
  exact popb_plain (s := s.setP p) ((plainRead_congr rfl).mpr h)

/-- RTI's pops of P and PC, from every later state that kept the stack. -/
theorem pops_p_pc {s u : State} (hwf : Memory.wf s.mem) (hpage : s.cpu.e = true → hi s.cpu.s = 0x01)
    (hstack : s.StackRam 3) (hu : StackKept (pushOffsets s.cpu.e 3 s.cpu.s) (savedPcP s) u) :
    ∃ t, popb u = .ok (s.cpu.p, t) ∧ popw (t.setP s.cpu.p) = .ok (s.cpu.pc, (u.setP s.cpu.p).setS s.cpu.s) := by
  obtain ⟨t, -, hp, -, -⟩ := pops_reverse_three_pushes hwf hpage hstack hu
  obtain ⟨hcfg, hmode, hpointer, hbytes⟩ := hu
  obtain ⟨t', w, hp', hlo, hhi⟩ :=
    pops_reverse_three_pushes (u := u.setP s.cpu.p) hwf hpage hstack ⟨hcfg, hmode, hpointer, hbytes⟩
  obtain ⟨-, -, hthird, -⟩ := stackRam_three hstack
  have up : stackUp u.cpu.e u.cpu.s = stackDown s.cpu.e (stackDown s.cpu.e s.cpu.s) := by
    rw [hmode, hpointer]
    exact stackUp_stackDown stackDown_keeps_page
  have plain : u.PlainRead 0x00 (stackUp u.cpu.e u.cpu.s) := up ▸ (plainRead_congr hcfg).mpr hthird.1
  obtain rfl : t.setP s.cpu.p = t' := by simpa using (popb_setP plain hp s.cpu.p).symm.trans hp'
  exact ⟨t, hp, popw_eq_ok.mpr ⟨_, w, _, hlo, hhi, (word_hi_lo _).symm⟩⟩

/-- The state RTI's pops of P and PC leave, from the state `entered f v` whose frame was pushed at `s` (47 R312). -/
def resumed (s f : State) (v : Word) : State := (((entered f v).setP s.cpu.p).setS s.cpu.s).setPc s.cpu.pc

theorem resumed_cfg (s f : State) (v : Word) : (resumed s f v).cfg = f.cfg := by simp [resumed, entered]

theorem resumed_mode (s f : State) (v : Word) : (resumed s f v).cpu.e = f.cpu.e := by simp [resumed, entered]

theorem resumed_pointer (s f : State) (v : Word) : (resumed s f v).cpu.s = s.cpu.s := rfl

theorem resumed_byteAt (s f : State) (v : Word) (b : Byte) (o : Word) :
    (resumed s f v).byteAt b o = f.byteAt b o :=
  State.byteAt_congr (resumed_cfg s f v) (by simp [resumed, entered]) b o

theorem resumed_cpu (s : State) (v : Word) : (resumed s (savedPcP s) v).cpu = { s.cpu with pbr := 0x00 } := by
  simp only [resumed, entered, State.setPc, State.setS, State.setP, State.jump, savedPcP_cpu]

/-- The entry and the return from it, over a frame of `n` bytes: the registers come back, but for PBR, which is `b`,
and of memory only the frame's bytes change. -/
def EntryThenReturn (s : State) (n : Nat) (b : Byte) : Prop :=
  ∃ t u, cpuInterrupt s = .ok t ∧ exec .rti t = .next u ∧ u.cpu = { s.cpu with pbr := b } ∧
    ∀ k o, (∀ x ∈ pushOffsets s.cpu.e n s.cpu.s, s.Apart k o 0x00 x) → u.byteAt k o = s.byteAt k o

section EntryAndReturn

variable {s : State} (hwf : Memory.wf s.mem) (hlow : s.PlainRead 0x00 s.nmiVector)
  (hhigh : s.PlainRead 0x00 (s.nmiVector + 1))

include hwf

/-- In native mode PBR lies above the frame of PC and P and is popped after them. -/
theorem popb_resumed_pushed (he : s.cpu.e = false) (hstack : s.StackRam 4) (b : Byte) (v : Word) :
    popb (resumed (pushed s b) (savedPcP (pushed s b)) v) =
      .ok (b, (resumed (pushed s b) (savedPcP (pushed s b)) v).setS s.cpu.s) := by
  have saved : (savedPcP (pushed s b)).byteAt 0x00 s.cpu.s = b :=
    (savedPcP_byteAt_other (s := pushed s b) fun _ h => List.rel_of_pairwise_cons hstack.2 h).trans
      (pushed_byteAt_same hwf b)
  have mode : (resumed (pushed s b) (savedPcP (pushed s b)) v).cpu.e = s.cpu.e := by
    rw [resumed_mode, savedPcP_cpu, pushed_cpu]
  have params : (resumed (pushed s b) (savedPcP (pushed s b)) v).cfg = s.cfg := by
    rw [resumed_cfg, savedPcP_cfg, pushed_cfg]
  refine popb_ram_above ?pointer ?page ((ram_congr params).mpr (hstack.1 _ List.mem_cons_self)) ?byte
  case pointer => rw [mode, resumed_pointer, pushed_cpu]
  case page => exact fun h => absurd (mode.symm.trans h) (ne_true_of_eq_false he)
  case byte => rw [resumed_byteAt, saved]

include hlow hhigh

theorem entry_then_return_emulation (he : s.cpu.e = true) (hpage : hi s.cpu.s = 0x01) (hstack : s.StackRam 3) :
    EntryThenReturn s 3 0x00 := by
  obtain ⟨v, enter⟩ := cpuInterrupt_of_pushFrame (pushFrame_emulation he hstack) hlow hhigh
  obtain ⟨t, hp, hpc⟩ := pops_p_pc hwf (fun _ => hpage) hstack (stackKept_entered _ (savedPcP s) v)
  refine ⟨_, resumed s (savedPcP s) v, enter, congrArg finish (returnFromInterrupt_emulation hp hpc he),
    resumed_cpu s v, fun k o apart => ?_⟩
  rw [resumed_byteAt, savedPcP_byteAt_other apart]

theorem entry_then_return_native (he : s.cpu.e = false) (hstack : s.StackRam 4) :
    EntryThenReturn s 4 s.cpu.pbr := by
  obtain ⟨v, enter⟩ := cpuInterrupt_of_pushFrame (pushFrame_native he hstack) hlow hhigh
  obtain ⟨t, hp, hpc⟩ := pops_p_pc (pushed_wf hwf s.cpu.pbr) (fun h => absurd h (ne_true_of_eq_false he))
    (stackRam_pushed hstack s.cpu.pbr) (stackKept_entered _ (savedPcP (pushed s s.cpu.pbr)) v)
  have hbank := popb_resumed_pushed hwf he hstack s.cpu.pbr v
  refine ⟨_, _, enter, congrArg finish (returnFromInterrupt_native hp hpc he hbank), ?_, fun k o apart => ?_⟩
  · simp only [State.jump, State.setS, resumed_cpu, pushed_cpu]
  · obtain ⟨apartBank, apartRest⟩ := List.forall_mem_cons.mp apart
    calc _ = (resumed (pushed s s.cpu.pbr) (savedPcP (pushed s s.cpu.pbr)) v).byteAt k o :=
          State.byteAt_congr (by simp) (by simp) k o
      _ = (savedPcP (pushed s s.cpu.pbr)).byteAt k o := resumed_byteAt _ _ v k o
      _ = (pushed s s.cpu.pbr).byteAt k o := savedPcP_byteAt_other apartRest
      _ = s.byteAt k o := pushed_byteAt_other apartBank s.cpu.pbr

end EntryAndReturn

/-- Settles O50: by the mode, RTI's pops taking back the bytes the entry pushed. -/
theorem returnUndoesTheEntry : Obligations.ReturnUndoesTheEntry := by
  intro s hwf hpage hstack hlow hhigh
  cases he : s.cpu.e with
  | true =>
    rw [he, if_pos rfl] at hstack
    have undone := entry_then_return_emulation hwf hlow hhigh he (hpage he) hstack
    rwa [EntryThenReturn, he] at undone
  | false =>
    rw [he] at hstack
    have undone := entry_then_return_native hwf hlow hhigh he hstack
    rwa [EntryThenReturn, he] at undone

end Sys2Proof.Machine
end

section
/-! PROOFS. The scheduler: the two unsupported features, the accounting of an iteration and its two drains (48 R321 to
R334, R340, 49 R361). -/

namespace Sys2Proof.Machine

/-- Settles O10: a step looks at the two enables before anything of the iteration, at HDMA first. -/
theorem unsupportedFeaturesTrap : Obligations.UnsupportedFeaturesTrap := by
  intro s running params
  refine ⟨fun hdma => ?_, fun noHdma counter => ?_⟩
  · rw [step, running, params, hdma]; rfl
  · rw [step, running, params, noHdma, counter]; rfl

/-- Settles O8: `apuDrain_step` is the loop's one step, of `apuCycles` audio cycles. -/
theorem audioDrainStepsWhileAboveTheDivisor : Obligations.AudioDrainStepsWhileAboveTheDivisor :=
  ⟨fun _ h => apuDrain_idle (not_lt.mpr h), fun s hd h => ⟨_, _, apuCycles_pos s, apuDrain_step hd h⟩⟩

/-- Settles O9: `ppuDrain_step` is the loop's one dot, whose vertical blank is that of the position it moved to. -/
theorem pictureDrainDeliversTheInterrupt : Obligations.PictureDrainDeliversTheInterrupt := by
  refine ⟨fun s h => ppuDrain_idle (not_lt.mpr h), fun s f => ppuDrain_fault, ?_⟩
  rintro s u paid ev latched hc hp ha hpaid rfl
  obtain ⟨only, -, -, -, -, cycles, -, vblank⟩ := ppuAdvance_keeps ha
  obtain rfl : paid = u.payDots ev.cycles := by rw [hpaid, State.payDots, only.sched, cycles]
  have dot := ppuDrain_step hc hp ha
  rw [vblank, only.sched] at dot
  rw [← only.box]
  refine ⟨fun away => ?_, fun hh hv disabled => ?_, fun hh hv enabled => ?_⟩
  · rw [dot, if_neg (by simpa using away)]
  · rw [dot, if_pos (by simp [hh, hv]), disabled]; rfl
  · rw [dot, if_pos (by simp [hh, hv]), enabled]; rfl

/-! ### The accounting of an iteration -/

theorem apuDrain_charge_cfg (s : State) (n : Nat) : (apuDrain (s.charge n)).cfg = s.cfg := rfl

theorem apuDrain_charge_dots (s : State) (n : Nat) : (apuDrain (s.charge n)).dots = s.dots := rfl

theorem apuDrain_charge_master (s : State) (n : Nat) :
    (apuDrain (s.charge n)).sched.master = s.sched.master + n := rfl

theorem apuDrain_charge_ppuDebt (s : State) (n : Nat) :
    (apuDrain (s.charge n)).sched.ppuDebt = s.sched.ppuDebt + n := rfl

theorem posAfter_add (g : Geometry) (m n : Nat) (p : Nat × Nat) :
    posAfter g (m + n) p = posAfter g n (posAfter g m p) := by
  induction n with
  | zero => rfl
  | succ n ih => exact congrArg (nextPos g) ih

/-- The clock of `t` is that of `s` after `n` dots, each paid for out of the picture debt (48 R332, 49 R361). -/
structure DotsRun (n : Nat) (s t : State) : Prop where
  cfg     : t.cfg = s.cfg
  master  : t.sched.master = s.sched.master
  apuDebt : t.sched.apuDebt = s.sched.apuDebt
  ppuDebt : t.sched.ppuDebt = s.sched.ppuDebt - (n * s.cfg.dotMasterCycles : Nat)
  pos     : (t.dots.h, t.dots.v) = posAfter s.cfg.geometry n (s.dots.h, s.dots.v)

theorem DotsRun.of_sameClock {s t : State} (h : SameClock s t) : DotsRun 0 s t :=
  ⟨h.cfg, h.master, h.apuDebt, by simp [h.ppuDebt], Prod.ext h.dotH h.dotV⟩

theorem DotsRun.of_dot {s u : State} {ev : DotEvents} (h : ppuAdvance s = .ok (ev, u)) :
    DotsRun 1 s (u.payDots ev.cycles) := by
  obtain ⟨only, hh, hv, -, -, cycles, -, -⟩ := ppuAdvance_keeps h
  have sched : (u.payDots ev.cycles).sched = { s.sched with ppuDebt := s.sched.ppuDebt - s.cfg.dotMasterCycles } := by
    rw [State.payDots_sched, only.sched, cycles]
  exact ⟨only.cfg, by rw [sched], by rw [sched], by rw [sched, Nat.one_mul], Prod.ext hh hv⟩

theorem DotsRun.trans {m n : Nat} {s t u : State} (h : DotsRun m s t) (k : DotsRun n t u) : DotsRun (m + n) s u where
  cfg := k.cfg.trans h.cfg
  master := k.master.trans h.master
  apuDebt := k.apuDebt.trans h.apuDebt
  ppuDebt := by rw [k.ppuDebt, h.ppuDebt, h.cfg, Nat.add_mul]; omega
  pos := by rw [k.pos, h.pos, h.cfg, posAfter_add]

/-- What a picture drain from `s` to `t` does to the clock, and where it ends (48 R323, R332, R334). -/
structure Drained (s t : State) : Prop where
  run   : ∃ n, DotsRun n s t
  ended : t.sched.ppuDebt ≤ 0 ∨ t.dots.h = 0 ∧ t.dots.v = s.cfg.geometry.vblankLine
  above : -(s.cfg.dotMasterCycles : Int) < s.sched.ppuDebt → -(s.cfg.dotMasterCycles : Int) < t.sched.ppuDebt

/-- A dot out of a positive debt, then the rest of the drain. -/
theorem Drained.of_dot {s u t : State} (hp : s.sched.ppuDebt > 0) (dot : DotsRun 1 s u) (rest : Drained u t) :
    Drained s t := by
  obtain ⟨⟨n, run⟩, ended, above⟩ := rest
  have paid := dot.ppuDebt
  rw [dot.cfg] at ended above
  exact ⟨⟨1 + n, dot.trans run⟩, ended, fun _ => above (by omega)⟩

theorem ppuDrain_drained {s t : State} (hc : 0 < s.cfg.dotMasterCycles) (h : ppuDrain s = .ok t) : Drained s t := by
  refine ppuDrain_induct (P := Drained) hc ?idle ?dot ?latch ?deliver h
  case idle => exact fun s hp => ⟨⟨0, .of_sameClock (SameClock.refl s)⟩, .inl (not_lt.mp hp), id⟩
  case dot => exact fun s u ev t hp ha _ rest => .of_dot hp (.of_dot ha) rest
  case latch =>
    intro s u ev t hp ha _ _ rest
    exact .of_dot hp ((DotsRun.of_dot ha).trans (.of_sameClock (inputLatch_touched _).clock)) rest
  case deliver =>
    intro s u ev t hp ha blank _ hi
    obtain ⟨-, -, -, -, -, -, -, vblank⟩ := ppuAdvance_keeps ha
    obtain ⟨hh, hv⟩ := of_decide_eq_true (vblank.symm.trans blank)
    have entry := ((inputLatch_touched _).clock.trans (markIrq_touched _).clock).trans (cpuInterrupt_safe hi).clock
    have run : DotsRun 1 s t := (DotsRun.of_dot ha).trans (.of_sameClock entry)
    have paid := run.ppuDebt
    exact ⟨⟨1, run⟩, .inr ⟨entry.dotH.trans hh, entry.dotV.trans hv⟩, fun _ => by omega⟩

/-- Settles O7: fetch and instruction leave the clock alone, the charge adds `mc`, and each drain takes off its own. -/
theorem stepAccountsForTime : Obligations.StepAccountsForTime := by
  intro s t h
  obtain ⟨ready, op, i, u, w, fetched, ran, settled⟩ := step_eq_next h
  have clock : SameClock s w :=
    ((clearDma_touched s).clock.trans (fetchInstr_safe fetched).clock).trans (exec_safe ran).clock
  obtain ⟨hd, hc⟩ := configOk_pos ready.params
  rw [← clock.cfg] at hd hc
  obtain ⟨⟨n, run⟩, ended, above⟩ := ppuDrain_drained (s := apuDrain (w.charge (w.masterCost op))) hc settled
  obtain ⟨low, k, audio⟩ := apuDrain_debt (s := w.charge (w.masterCost op)) hd
  have cost : w.masterCost op = s.cfg.cycles.get op.toFin * s.cfg.cpuMasterRatio + w.sched.dmaCycles := by
    rw [State.masterCost, State.cyclesOf, clock.cfg]
  rw [State.charge_cfg, clock.cfg] at low audio
  rw [apuDrain_charge_cfg, clock.cfg] at ended above
  refine ⟨⟨op, i, u, w, _, n, k, fetched, ran, cost, ?master, ?picture, ?audio, ?position⟩, ?low, ended, ?above⟩
  case master => rw [run.master, apuDrain_charge_master, clock.master]
  case picture => rw [run.ppuDebt, apuDrain_charge_ppuDebt, apuDrain_charge_cfg, clock.cfg, clock.ppuDebt]
  case audio => rw [run.apuDebt, audio, State.charge_sched, clock.apuDebt]
  case position => rw [run.pos, apuDrain_charge_cfg, apuDrain_charge_dots, clock.cfg, clock.dotH, clock.dotV]
  case low => rwa [run.apuDebt]
  case above =>
    intro hp
    exact above (by rw [apuDrain_charge_ppuDebt, clock.ppuDebt]; omega)

end Sys2Proof.Machine
end

section
/-! PROOFS. How often the two blanks come (49 R361, R362). -/

namespace Sys2Proof.Machine

/-! ### Positions as numbers -/

theorem succ_mod {m : Nat} (hm : 0 < m) (n : Nat) : (n + 1) % m = if n % m + 1 = m then 0 else n % m + 1 := by
  have below := Nat.mod_lt n hm
  have split_off : n + 1 = n % m + 1 + m * (n / m) := by rw [Nat.add_right_comm, Nat.mod_add_div]
  rw [split_off, Nat.add_mul_mod_self_left]
  split
  · rename_i wraps
    rw [wraps, Nat.mod_self]
  · exact Nat.mod_eq_of_lt (by omega)

theorem succ_div {m : Nat} (hm : 0 < m) (n : Nat) : (n + 1) / m = if n % m + 1 = m then n / m + 1 else n / m := by
  have wraps : m ∣ n + 1 ↔ n % m + 1 = m := by
    rw [Nat.dvd_iff_mod_eq_zero, succ_mod hm]
    split <;> simp [*]
  rw [Nat.succ_div, if_congr wraps rfl rfl]
  split <;> rfl

/-- The position with a number, counted line by line and starting again after the last line. -/
def positionOf (g : Geometry) (n : Nat) : Nat × Nat := (n % g.dotsPerLine, n / g.dotsPerLine % g.linesPerFrame)

theorem positionOf_number {g : Geometry} {h v : Nat} (hh : h < g.dotsPerLine) (hv : v < g.linesPerFrame) :
    positionOf g (v * g.dotsPerLine + h) = (h, v) := by
  have line : (v * g.dotsPerLine + h) / g.dotsPerLine = v := by
    rw [Nat.mul_comm, Nat.mul_add_div (by omega), Nat.div_eq_of_lt hh, Nat.add_zero]
  rw [positionOf, line, Nat.mod_eq_of_lt hv, Nat.mul_comm, Nat.mul_add_mod, Nat.mod_eq_of_lt hh]

theorem nextPos_positionOf {g : Geometry} (hd : 0 < g.dotsPerLine) (hl : 0 < g.linesPerFrame) (n : Nat) :
    nextPos g (positionOf g n) = positionOf g (n + 1) := by
  rw [positionOf, positionOf, nextPos, nextH, nextV, succ_mod hd, succ_div hd]
  split
  · rw [succ_mod hl]
  · rfl

theorem posAfter_eq {g : Geometry} {h v : Nat} (hh : h < g.dotsPerLine) (hv : v < g.linesPerFrame) (k : Nat) :
    posAfter g k (h, v) = positionOf g (v * g.dotsPerLine + h + k) := by
  induction k with
  | zero => exact (positionOf_number hh hv).symm
  | succ k ih => rw [posAfter, ih, nextPos_positionOf (by omega) (by omega), Nat.add_assoc]

/-- The start of line `l` is where the number is that of line `l` within the frame. -/
theorem positionOf_eq_start {g : Geometry} (hd : 0 < g.dotsPerLine) (n l : Nat) :
    positionOf g n = (0, l) ↔ n % (g.dotsPerLine * g.linesPerFrame) = g.dotsPerLine * l := by
  rw [positionOf, Prod.mk.injEq, Nat.mod_mul]
  constructor
  · rintro ⟨hn, hl⟩
    rw [hn, hl, Nat.zero_add]
  · intro e
    have hn : n % g.dotsPerLine = 0 := by
      have := congrArg (· % g.dotsPerLine) e
      simpa using this
    rw [hn, Nat.zero_add] at e
    exact ⟨hn, Nat.eq_of_mul_eq_mul_left hd e⟩

/-! ### Counting -/

/-- Of `m` consecutive numbers exactly one has a given remainder by `m`. -/
theorem countP_remainder {m r : Nat} (a : Nat) (hr : r < m) :
    (List.range m).countP (fun k => (a + (k + 1)) % m == r) = 1 := by
  have hm : 0 < m := by omega
  have shifted : r + (m - 1) * (a + 1) + (a + 1) = r + m * (a + 1) := by
    rw [Nat.add_assoc, ← Nat.succ_mul, Nat.succ_eq_add_one, Nat.sub_add_cancel hm]
  have residue : ∀ k, (a + (k + 1)) % m = r ↔ k ≡ r + (m - 1) * (a + 1) [MOD m] := by
    intro k
    rw [← Nat.ModEq.add_iff_right (c := a + 1) (d := a + 1) rfl, shifted]
    rw [Nat.ModEq, Nat.add_mul_mod_self_left, Nat.mod_eq_of_lt hr, Nat.add_left_comm, Nat.add_comm k]
  have count := Nat.count_modEq_card m hm (r + (m - 1) * (a + 1))
  rw [Nat.div_self hm, Nat.mod_self, if_neg (Nat.not_lt_zero _)] at count
  refine Eq.trans (List.countP_congr fun k _ => ?_) count
  rw [beq_iff_eq, decide_eq_true_eq, residue]

/-- Settles O54: the dots of a line, and those of a frame, are consecutive numbers, and each blank is one remainder. -/
theorem blankingFrequency : Obligations.BlankingFrequency := by
  intro g h v positive inLine _ inFrame hh hv
  have hd : 0 < g.dotsPerLine := by omega
  simp only [posAfter_eq hh hv]
  refine ⟨countP_remainder _ inLine, ?frame, fun k ⟨hblank, vblank⟩ => ?never⟩
  case frame =>
    have start : g.dotsPerLine * g.vblankLine < g.dotsPerLine * g.linesPerFrame := Nat.mul_lt_mul_of_pos_left inFrame hd
    refine Eq.trans (List.countP_congr fun k _ => ?_) (countP_remainder (v * g.dotsPerLine + h) start)
    rw [beq_iff_eq, beq_iff_eq, positionOf_eq_start hd]
  case never => exact positive.ne ((congrArg Prod.fst vblank).symm.trans hblank)

end Sys2Proof.Machine
end

section
/-! PROOFS. Colours (49 R393), tilemaps (49 R384, R385) and candidates (49 R382, R383, R388). -/

namespace Sys2Proof.Machine

/-! ### Colours -/

/-- A 5-bit channel is its number times 8, with nothing lost (49 R393). -/
theorem channel_toNat (x : BitVec 5) : (x.setWidth 8 <<< 3).toNat = x.toNat * 8 := by
  have := x.isLt
  simp only [BitVec.toNat_shiftLeft, BitVec.toNat_setWidth, Nat.shiftLeft_eq]
  omega

/-- Settles O60: each channel is a 5-bit field, and 31 times 8 is 248. -/
theorem colourChannels : Obligations.ColourChannels := by
  intro c
  simp only [rgb, channel_toNat, BitVec.extractLsb'_toNat, Nat.shiftRight_eq_div_pow, true_and]
  omega

/-! ### Tilemaps -/

/-- The fields of a tilemap word, as the digits of its number (49 R384). -/
theorem tilemapEntry_fields (w : Word) :
    w.toNat = (tilemapEntry w).vflip.toNat * 32768 + (tilemapEntry w).hflip.toNat * 16384
      + (tilemapEntry w).prio.toNat * 8192 + (tilemapEntry w).palette.toNat * 1024 + (tilemapEntry w).tile.toNat := by
  have := w.isLt
  simp only [tilemapEntry, BitVec.extractLsb'_toNat, ← BitVec.testBit_toNat, Nat.toNat_testBit,
    Nat.shiftRight_eq_div_pow]
  omega

/-- The offset of an entry is its screen's, then its place in the 32 by 32 screen (49 R385). -/
theorem mapOffset_eq_screen {l : BgLayer} {tx ty screen : Nat}
    (both : l.mapHmirror = true → l.mapVmirror = true → screen = 0)
    (wide : l.mapHmirror = false → l.mapVmirror = true → screen = tx / 32 % 2)
    (tall : l.mapHmirror = true → l.mapVmirror = false → screen = ty / 32 % 2)
    (square : l.mapHmirror = false → l.mapVmirror = false → screen = tx / 32 % 2 + 2 * (ty / 32 % 2)) :
    mapOffset l tx ty = screen * 1024 + ty % 32 * 32 + tx % 32 := by
  unfold mapOffset
  cases hh : l.mapHmirror <;> cases hv : l.mapVmirror <;>
    simp only [Bool.not_true, Bool.not_false, Bool.true_and, Bool.false_and, Bool.false_eq_true, if_false, if_true,
      decide_eq_true_eq]
  case true.true => rw [both hh hv]; omega
  case false.true => rw [wide hh hv]; split <;> omega
  case true.false => rw [tall hh hv]; split <;> omega
  case false.false => rw [square hh hv]; split <;> split <;> omega

/-- Settles O59: the word's digits, and the offset by its screen. -/
theorem tilemapEntriesAndAddresses : Obligations.TilemapEntriesAndAddresses := by
  refine ⟨tilemapEntry_fields, fun s b tx ty screen both wide tall square => ?_⟩
  rw [State.mapAddress, mapOffset_eq_screen both wide tall square, ← Nat.add_assoc, ← Nat.add_assoc]

/-! ### Sprite candidates -/

theorem covers_iff {x : Nat} {p : BitVec 2} {d : Tile} : covers x p d = true ↔ d.Covers x p := by
  simp only [covers, Tile.Covers, Bool.and_eq_true, decide_eq_true_eq, and_assoc]

theorem tileIndex_of_tileIndexIs {s : State} {d : Tile} {x idx : Nat} (h : s.TileIndexIs d x idx) :
    s.tileIndex x d = idx := by
  obtain ⟨col, hx, rfl⟩ := h
  rw [State.tileIndex, hx, add_sub_cancel_left, Int.toNat_natCast]

theorem tileColor_of_tileIndexIs {s : State} {d : Tile} {x idx : Nat} (h : s.TileIndexIs d x idx) :
    s.tileColor x d = if idx = 0 then none else some (128 + d.palette.toNat * 16 + idx) := by
  rw [State.tileColor, tileIndex_of_tileIndexIs h]

theorem decodePixel_lt (s : State) (chr row col : Nat) {n : Nat} (hn : n % 2 = 0) :
    s.decodePixel chr n row col < 2 ^ n := by
  have bound := decodePairs_lt s chr row col (n / 2)
  rwa [show 2 * (n / 2) = n by omega] at bound

/-- A sprite's colour lies above the backgrounds' palettes (49 R382, R392). -/
theorem tileColor_range {s : State} {x k : Nat} {d : Tile} (h : s.tileColor x d = some k) : 128 < k ∧ k ≤ 255 := by
  have index : s.tileIndex x d < 16 := decodePixel_lt s _ _ _ rfl
  have palette := d.palette.isLt
  rw [State.tileColor, Option.ite_none_left_eq_some, Option.some.injEq] at h
  omega

section Lookup

variable {s : State} {x : Nat} {p : BitVec 2}

theorem spriteCandidate_firstCovering (h : s.cfg.spriteLookup = .firstCovering) :
    s.spriteCandidate x p = (s.dots.tiles.find? (covers x p)).bind (s.tileColor x) := by
  rw [State.spriteCandidate, h]
  cases s.dots.tiles.find? (covers x p) <;> rfl

theorem spriteCandidate_firstOpaque (h : s.cfg.spriteLookup = .firstOpaque) :
    s.spriteCandidate x p = (s.dots.tiles.filter (covers x p)).findSome? (s.tileColor x) := by
  rw [State.spriteCandidate, h]

/-- A candidate is the colour of some descriptor of the list. -/
theorem spriteCandidate_range {k : Nat} (h : s.spriteCandidate x p = some k) : 128 < k ∧ k ≤ 255 := by
  cases lookup : s.cfg.spriteLookup with
  | firstCovering =>
    rw [spriteCandidate_firstCovering lookup, Option.bind_eq_some_iff] at h
    obtain ⟨d, -, color⟩ := h
    exact tileColor_range color
  | firstOpaque =>
    rw [spriteCandidate_firstOpaque lookup] at h
    obtain ⟨d, -, color⟩ := List.exists_of_findSome?_eq_some h
    exact tileColor_range color

theorem firstCovering_of_split {pre post : List Tile} {d : Tile} {idx : Nat} (h : s.cfg.spriteLookup = .firstCovering)
    (list : s.dots.tiles = pre ++ d :: post) (before : ∀ c ∈ pre, ¬ c.Covers x p) (here : d.Covers x p)
    (index : s.TileIndexIs d x idx) :
    s.spriteCandidate x p = if idx = 0 then none else some (128 + d.palette.toNat * 16 + idx) := by
  have found : s.dots.tiles.find? (covers x p) = some d := by
    rw [List.find?_eq_some_iff_append]
    exact ⟨covers_iff.mpr here, pre, post, list, fun c hc => by simpa [← covers_iff] using before c hc⟩
  rw [spriteCandidate_firstCovering h, found, Option.bind_some, tileColor_of_tileIndexIs index]

theorem firstCovering_of_none (h : s.cfg.spriteLookup = .firstCovering) (away : ∀ d ∈ s.dots.tiles, ¬ d.Covers x p) :
    s.spriteCandidate x p = none := by
  have missing : s.dots.tiles.find? (covers x p) = none :=
    List.find?_eq_none.mpr fun d hd => mt covers_iff.mp (away d hd)
  rw [spriteCandidate_firstCovering h, missing, Option.bind_none]

/-- Descriptors that do not cover the column, or whose index there is 0, are passed over. -/
theorem findSome?_transparent {ds : List Tile} (h : ∀ d ∈ ds, d.Covers x p → s.TileIndexIs d x 0) :
    (ds.filter (covers x p)).findSome? (s.tileColor x) = none := by
  rw [List.findSome?_eq_none_iff]
  intro d hd
  obtain ⟨mem, cov⟩ := List.mem_filter.mp hd
  exact tileColor_of_tileIndexIs (h d mem (covers_iff.mp cov))

theorem firstOpaque_of_split {pre post : List Tile} {d : Tile} {idx : Nat} (h : s.cfg.spriteLookup = .firstOpaque)
    (list : s.dots.tiles = pre ++ d :: post) (before : ∀ c ∈ pre, c.Covers x p → s.TileIndexIs c x 0)
    (here : d.Covers x p) (index : s.TileIndexIs d x idx) (solid : idx ≠ 0) :
    s.spriteCandidate x p = some (128 + d.palette.toNat * 16 + idx) := by
  rw [spriteCandidate_firstOpaque h, list, List.filter_append, List.filter_cons_of_pos (covers_iff.mpr here),
    List.findSome?_append, findSome?_transparent before, Option.none_or, List.findSome?_cons,
    tileColor_of_tileIndexIs index, if_neg solid]

end Lookup

/-! ### Background candidates -/

/-- The palette base of a layer is the one of its rule (49 R388). -/
theorem paletteBase_of_paletteBaseIs {s : State} {b : Fin 4} {depth : Depth} {pal : BitVec 3} {base : Nat}
    (h : s.PaletteBaseIs b (planes depth) pal base) : s.paletteBase b depth pal = base := by
  rcases h with ⟨hn, mode, rfl⟩ | ⟨hn, mode, rfl⟩ | ⟨hn, rfl⟩ | ⟨hn, rfl⟩ <;> cases depth <;> cases hn
  · exact if_pos mode
  · exact if_neg mode
  · rfl
  · rfl

/-- A palette base and an index stay inside the 256 colours (49 R392). -/
theorem paletteBase_add_le (s : State) (b : Fin 4) (depth : Depth) (pal : BitVec 3) {idx : Nat}
    (h : idx < 2 ^ planes depth) : s.paletteBase b depth pal + idx ≤ 255 := by
  have := b.isLt
  have := pal.isLt
  cases depth <;> simp only [planes, State.paletteBase] at h ⊢
  · split <;> omega
  · omega
  · omega

theorem planes_even (depth : Depth) : planes depth % 2 = 0 := by cases depth <;> rfl

theorem eq_planes {depth : Depth} {n : Nat} (h : (depth, n) ∈ [(Depth.two, 2), (.four, 4), (.eight, 8)]) :
    n = planes depth := by
  simp only [List.mem_cons, Prod.mk.injEq, List.not_mem_nil, or_false] at h
  rcases h with ⟨rfl, rfl⟩ | ⟨rfl, rfl⟩ | ⟨rfl, rfl⟩ <;> rfl

theorem bgCandidate_of_no_layer {s : State} {row : BgModeRow} {b : Fin 4} (h : row.depth.get b = none) (p : Bool)
    (x line : Nat) : s.bgCandidate row b p x line = none := by simp only [State.bgCandidate, h]

/-- The tilemap entry a background candidate fetches, at the scrolled position (49 R383). -/
def State.bgEntry (s : State) (b : Fin 4) (x line : Nat) : TilemapEntry :=
  tilemapEntry (s.vramWord (s.mapAddress b ((x + (s.pic.layers.get b).hofs.toNat) % 1024 / 8)
    ((line + (s.pic.layers.get b).vofs.toNat) % 1024 / 8)))

/-- A coordinate inside a tile after a flip (49 R383, R386). -/
def flipped (flip : Bool) (c : Nat) : Nat := if flip then 7 - c % 8 else c % 8

/-- The index a background candidate decodes, with `n` planes (49 R383). -/
def State.bgIndex (s : State) (b : Fin 4) (n x line : Nat) : Nat :=
  s.decodePixel (((s.pic.layers.get b).chrBase * 2 + (s.bgEntry b x line).tile.toNat * 8 * n) % s.cfg.vramBytes) n
    (flipped (s.bgEntry b x line).vflip ((line + (s.pic.layers.get b).vofs.toNat) % 1024))
    (flipped (s.bgEntry b x line).hflip ((x + (s.pic.layers.get b).hofs.toNat) % 1024))

theorem bgIndex_lt (s : State) (b : Fin 4) (depth : Depth) (x line : Nat) :
    s.bgIndex b (planes depth) x line < 2 ^ planes depth := decodePixel_lt s _ _ _ (planes_even depth)

theorem bgCandidate_of_layer {s : State} {row : BgModeRow} {b : Fin 4} {depth : Depth}
    (h : row.depth.get b = some depth) (p : Bool) (x line : Nat) :
    s.bgCandidate row b p x line =
      if (s.bgEntry b x line).prio = p then
        if s.bgIndex b (planes depth) x line = 0 then none
        else some (s.paletteBase b depth (s.bgEntry b x line).palette + s.bgIndex b (planes depth) x line)
      else none := by
  simp only [State.bgCandidate, h]
  rfl

theorem bgCandidate_range {s : State} {row : BgModeRow} {b : Fin 4} {p : Bool} {x line k : Nat}
    (h : s.bgCandidate row b p x line = some k) : 0 < k ∧ k ≤ 255 := by
  cases layer : row.depth.get b with
  | none => rw [bgCandidate_of_no_layer layer] at h; cases h
  | some depth =>
    rw [bgCandidate_of_layer layer, Option.ite_none_right_eq_some, Option.ite_none_left_eq_some,
      Option.some.injEq] at h
    have bound := paletteBase_add_le s b depth (s.bgEntry b x line).palette (bgIndex_lt s b depth x line)
    omega

/-- Settles O57: sprites by the two lookups, backgrounds by the entry fetched; every index is below 2 to its planes. -/
theorem candidateColoursInRange : Obligations.CandidateColoursInRange := by
  refine ⟨fun s x p => ⟨fun first => ⟨?covering, firstCovering_of_none first⟩,
      fun first => ⟨?solid, fun clear => ?clear⟩, fun _ => spriteCandidate_range⟩,
    fun s row b p x line => ⟨fun absent => bgCandidate_of_no_layer absent p x line, ?layer,
      fun _ => bgCandidate_range⟩⟩
  case covering => exact fun _ _ _ _ => firstCovering_of_split first
  case solid => exact fun _ _ _ _ => firstOpaque_of_split first
  case clear => rw [spriteCandidate_firstOpaque first, findSome?_transparent clear]
  case layer =>
    intro depth n px py m fx fy idx base e layer hn hpx hpy hm he hfx hfy hidx hbase
    obtain rfl := eq_planes hn
    obtain rfl : e = s.vramWord m := eq_word_of_toNat he
    subst hpx hpy hm hfx hfy
    have index : s.bgIndex b (planes depth) x line = idx := hidx.symm
    have palette : s.paletteBase b depth (s.bgEntry b x line).palette = base := paletteBase_of_paletteBaseIs hbase
    rw [bgCandidate_of_layer layer, index, palette]
    exact ⟨fun other => if_neg other, fun same => if_pos same⟩

end Sys2Proof.Machine
end

section
/-! PROOFS. The pixel and the priority mixer (49 R380, R381, R390 to R392). -/

namespace Sys2Proof.Machine

theorem State.color_congr {s t : State} (h : t.pic = s.pic) (k : Nat) : t.color k = s.color k := by
  rw [State.color, State.color, h]

theorem color_byte (s : State) (k : Byte) : s.color k.toNat = s.pic.cgram.get k.toFin :=
  congrArg s.pic.cgram.get (Fin.ext (Nat.mod_eq_of_lt k.isLt))

theorem State.debugIndex_congr {s t : State} (h : t.cfg = s.cfg) (x line : Nat) :
    t.debugIndex x line = s.debugIndex x line := by rw [State.debugIndex, State.debugIndex, h]

theorem inDebugRegion_iff {s : State} {x line : Nat} :
    s.inDebugRegion x line = true ↔ x < s.cfg.debugRegion.width ∧ line < s.cfg.debugRegion.height := by
  simp only [State.inDebugRegion, Bool.and_eq_true, decide_eq_true_eq]

theorem debugIndex_eq {s : State} {x line : Nat} {k : Option Byte}
    (h : s.cfg.debugRegion.index[line * s.cfg.debugRegion.width + x]? = k) :
    s.debugIndex x line = (k.getD 0).toNat := by rw [State.debugIndex, List.getD_eq_getElem?_getD, h]

theorem pixel_inside {s : State} {x line : Nat}
    (h : x < s.cfg.debugRegion.width ∧ line < s.cfg.debugRegion.height) :
    pixel x line s = .ok (rgb (s.color (s.debugIndex x line)), ensureTiles line s) := by
  have kept := ensureTiles_kept line s
  rw [pixel, if_pos (inDebugRegion_iff.mpr h), State.color_congr kept.pic, State.debugIndex_congr kept.cfg]

theorem pixel_unsupported {s : State} {x line : Nat}
    (h : ¬ (x < s.cfg.debugRegion.width ∧ line < s.cfg.debugRegion.height))
    (mode : s.cfg.bgModeTable.get s.pic.bgMode.toFin = none) :
    pixel x line s = .error (.unsupportedBgMode s.pic.bgMode) := by
  rw [pixel, if_neg (mt inDebugRegion_iff.mp h), mode]

theorem pixel_outside {s : State} {x line : Nat} {row : BgModeRow}
    (h : ¬ (x < s.cfg.debugRegion.width ∧ line < s.cfg.debugRegion.height))
    (mode : s.cfg.bgModeTable.get s.pic.bgMode.toFin = some row) :
    pixel x line s = .ok (rgb (s.color ((ensureTiles line s).winner row x line)), ensureTiles line s) := by
  rw [pixel, if_neg (mt inDebugRegion_iff.mp h), mode, ← State.color_congr (ensureTiles_kept line s).pic]

/-- A dot on a visible position traps where its pixel does, the rebuild before it changing neither mode nor region. -/
theorem ppuAdvance_unsupported {s : State}
    (visible : s.dots.h < s.cfg.geometry.visibleW ∧ s.dots.v < s.cfg.geometry.visibleH)
    (h : ¬ (s.dots.h < s.cfg.debugRegion.width ∧ s.dots.v < s.cfg.debugRegion.height))
    (mode : s.cfg.bgModeTable.get s.pic.bgMode.toFin = none) :
    ppuAdvance s = .error (.unsupportedBgMode s.pic.bgMode) := by
  have kept := dotStart_kept s
  rw [← kept.cfg] at h mode
  rw [← kept.pic] at mode
  rw [ppuAdvance, dotWork_visible visible, pixel_unsupported h mode, readThen_error, writeThen_error, kept.pic]

theorem winner_of_split {s : State} {row : BgModeRow} {x line k : Nat} {pre post : List Candidate} {c : Candidate}
    (order : row.order = pre ++ c :: post) (before : ∀ d ∈ pre, s.candidate row x line d = none)
    (here : s.candidate row x line c = some k) : s.winner row x line = k := by
  rw [State.winner, order, List.findSome?_append, List.findSome?_eq_none_iff.mpr before, Option.none_or,
    List.findSome?_cons, here, Option.getD_some]

theorem winner_of_none {s : State} {row : BgModeRow} {x line : Nat}
    (h : ∀ d ∈ row.order, s.candidate row x line d = none) : s.winner row x line = 0 := by
  rw [State.winner, List.findSome?_eq_none_iff.mpr h, Option.getD_none]

/-- Settles O56: a pixel's three ways, inside the debug region, under no row and by the mixer. -/
theorem firstOpaqueCandidateWins : Obligations.FirstOpaqueCandidateWins := by
  refine fun x line s => ⟨fun hx hl => ?debug, fun outside => ⟨fun mode => ?unsupported, fun row mode => ?mixed⟩⟩
  case debug =>
    rw [pixel_inside ⟨hx, hl⟩]
    refine ⟨fun k hk => ?_, fun hk => ?_⟩
    · rw [debugIndex_eq hk, Option.getD_some, color_byte]
    · rw [debugIndex_eq hk]
      rfl
  case unsupported =>
    refine ⟨pixel_unsupported outside mode, ?_⟩
    rintro rfl rfl hx hl
    exact ppuAdvance_unsupported ⟨hx, hl⟩ outside mode
  case mixed =>
    rw [pixel_outside outside mode]
    refine ⟨fun pre c post k order before here => ?_, fun transparent => ?_⟩
    · rw [winner_of_split order before here]
    · rw [winner_of_none transparent]

end Sys2Proof.Machine
end

section
/-! PROOFS. The interrupt entry wherever its pushes and its vector read succeed (60 R432). -/

namespace Sys2Proof.Machine

/-- The frame by its pushes: PBR in native mode alone, then PC, then P as stored (60 R432). -/
theorem pushFrame_of_pushes {s f : State}
    (h : (s.cpu.e = false ∧ ∃ x y, PushesByte s.cpu.pbr s x ∧ PushesWord s.cpu.pc x y ∧ PushesByte s.cpu.p y f) ∨
      (s.cpu.e = true ∧ ∃ y, PushesWord s.cpu.pc s y ∧ PushesByte s.cpu.p y f)) : pushFrame s = .ok f := by
  simp only [pushesByte_iff, pushesWord_iff] at h
  rcases h with ⟨native, x, y, bank, offset, status⟩ | ⟨emulation, y, offset, status⟩
  · rw [pushFrame, if_neg (ne_true_of_eq_false native), bank, writeThen_ok, offset, writeThen_ok, status]
  · rw [pushFrame, if_pos emulation, offset, writeThen_ok, status]

/-- P with I set, D cleared and every other flag kept is the P of the entry. -/
theorem eq_masked {p q : Byte} (hi : getFlag q .i = true) (hd : getFlag q .d = false)
    (others : ∀ g, g ≠ .i → g ≠ .d → getFlag q g = getFlag p g) : q = setFlag (setFlag p .i true) .d false := by
  refine byte_ext_flags fun g => ?_
  rw [getFlag_setFlag, getFlag_setFlag]
  split
  · rename_i e
    rw [e, hd]
  · split
    · rename_i e
      rw [e, hi]
    · rename_i notD notI
      exact others g notI notD

/-- Settles O49: the frame, then P, PBR and PC written, then the vector read, which leaves the registers alone. -/
theorem interruptEntry : Obligations.InterruptEntry := by
  intro s f u w q lb hb pc frame hi hd others low high hpc
  have pushed := pushFrame_of_pushes frame
  obtain ⟨-, sp, cpu, -⟩ := pushFrame_keeps pushed
  obtain rfl : q = setFlag (setFlag f.cpu.p .i true) .d false := by
    rw [cpu]
    exact eq_masked hi hd others
  have vector := busLoadWord_eq_ok.mpr ⟨lb, u, hb, low, high, eq_word_of_toNat hpc⟩
  constructor
  · rw [cpuInterrupt, pushed, writeThen_ok]
    exact congrArg (readThen · fun pc t => .ok (t.setPc pc)) vector
  · rw [(busLoadWord_loaded vector).cpu]
    simp only [State.jump, State.setP, cpu]

end Sys2Proof.Machine
end
